-- ==== Sys2Proof/Word.lean ====
section
/-! DEFINITION. The words of the FerrisSensor core: bytes, the six-byte RawSample, the two read lengths, and
the triple of signed axis values (spec/00_scope.md rules R7, R8; spec/10_state.md rule R12). -/

namespace Sys2Proof

/-- One byte: a sensor register, a register address, a byte on the bus (R7). -/
abbrev Byte := BitVec 8

/-- A RawSample: six bytes in bus order, X high, X low, Y high, Y low, Z high, Z low (R12, R53). -/
structure RawSample where
  b0 : Byte
  b1 : Byte
  b2 : Byte
  b3 : Byte
  b4 : Byte
  b5 : Byte
  deriving DecidableEq, Repr, Inhabited

/-- How many bytes a BUS.READ fetches: one (the identity byte) or six (the acceleration block); R46 allows no
other length. -/
inductive ReadLen where
  | one
  | six
  deriving DecidableEq, Repr, Inhabited

/-- An AccelVector in raw units: three signed integers (R9, R131). -/
structure AccelVec where
  x : Int
  y : Int
  z : Int
  deriving DecidableEq, Repr, Inhabited

end Sys2Proof
end

