-- ==== Sys2Proof/Config.lean ====
section
/-! DEFINITION. What a platform fixes and what stands outside the core: the parameters of spec/00_scope.md rule
R6 with their well-formedness (spec/70_reset_and_hazards.md rule R237), the data exchanged with the Bus Transport
and the Subscriber Channel (spec/20_memory.md rules R43, R45, R46, R52), and the answers those two oracles give
past the end of the answers listed in the state: free values, with no body. -/

namespace Sys2Proof

/-- A bus micro-operation: BUS.WRITE of one value to one sensor register, or BUS.READ of one or six bytes from a
sensor register on (R45, R46). -/
inductive MicroOp where
  | write (reg val : Byte)
  | read (reg : Byte) (len : ReadLen)
  deriving DecidableEq, Repr, Inhabited

/-- What the Bus Transport answers to a transaction (R43): `fail`, or `ok` with the bytes it would deliver.
An `ok` always carries six bytes: a six-byte read takes them all, a one-byte read takes the first, a write
takes none, so an `ok` holds exactly the bytes asked for whatever was asked (R51). -/
inductive BusAnswer where
  | fail
  | ok (data : RawSample)
  deriving DecidableEq, Repr, Inhabited

/-- What the event history records of a transaction's answer: `fail`, or `ok` with the bytes received (none for
a write). -/
inductive BusResult where
  | fail
  | ok (bytes : List Byte)
  deriving DecidableEq, Repr, Inhabited

/-- What the Subscriber Channel answers to a notification (R52). -/
inductive ChanAnswer where
  | ok
  | fail
  deriving DecidableEq, Repr, Inhabited

/-- One entry of the event history (R56): a bus transaction at a device address, or a notification. -/
inductive Event where
  | bus (addr : BitVec 7) (op : MicroOp) (result : BusResult)
  | notify (bytes : RawSample) (answer : ChanAnswer)
  deriving DecidableEq, Repr, Inhabited

/-- The parameters of R6. `wfLegal` lists the bytes of `WF_LEGAL`; `lpEnterSeq` and `lpExitSeq` are the write
lists of LPENTER and LPEXIT. -/
structure Params where
  fsG : Rat
  threshRaw : Nat
  mandSubscribe : Nat
  mandMotion : Nat
  skipCap : Nat
  idExpected : Byte
  regSignalPathReset : Byte
  valSignalPathReset : Byte
  regSmplrtDiv : Byte
  cfgSmplrtDiv : Byte
  regLpf : Byte
  cfgLpf : Byte
  regFsRange : Byte
  cfgFsRange : Byte
  regPwrMode : Byte
  valPwrActive : Byte
  regIdentity : Byte
  regAccelBase : Byte
  wfLegal : List Byte
  lpEnterSeq : Byte → List (Byte × Byte)
  lpExitSeq : List (Byte × Byte)

/-- A low-power write list has 1 to 15 pairs (R6, R237). -/
def lpLengthOk (l : List (Byte × Byte)) : Bool :=
  decide (1 ≤ l.length) && decide (l.length ≤ 15)

/-- Well-formed parameters, the conditions of R237 in its order. -/
def Params.wellFormed (P : Params) : Bool :=
  (decide (1 ≤ P.mandMotion) && decide (P.mandMotion ≤ P.mandSubscribe) && decide (P.mandSubscribe ≤ 7))
    && (decide (1 ≤ P.skipCap) && decide (P.skipCap ≤ 63))
    && decide (P.threshRaw < 2 ^ 64)
    && decide (P.regAccelBase.toNat ≤ 250)
    && (P.wfLegal.all (fun w => lpLengthOk (P.lpEnterSeq w)) && lpLengthOk P.lpExitSeq)
    && !P.wfLegal.isEmpty

namespace Config

/-- `SAMPLE_LEN` (R6): the bytes of an acceleration block. -/
def sampleLen : Nat := 6

/-! The sixteen OPEN parameters of R6, as opaque constants: nothing is known of them but their types. -/

/-- `ID_EXPECTED` -/
opaque idExpected : Byte
/-- `REG_SIGNAL_PATH_RESET` -/
opaque regSignalPathReset : Byte
/-- `VAL_SIGNAL_PATH_RESET` -/
opaque valSignalPathReset : Byte
/-- `REG_SMPLRT_DIV` -/
opaque regSmplrtDiv : Byte
/-- `CFG_SMPLRT_DIV` -/
opaque cfgSmplrtDiv : Byte
/-- `REG_LPF` -/
opaque regLpf : Byte
/-- `CFG_LPF` -/
opaque cfgLpf : Byte
/-- `REG_FS_RANGE` -/
opaque regFsRange : Byte
/-- `CFG_FS_RANGE` -/
opaque cfgFsRange : Byte
/-- `REG_PWR_MODE` -/
opaque regPwrMode : Byte
/-- `VAL_PWR_ACTIVE` -/
opaque valPwrActive : Byte
/-- `REG_IDENTITY` -/
opaque regIdentity : Byte
/-- `REG_ACCEL_BASE`, at most 250 by its type (R54, R237). -/
opaque accelBase : Fin 251
/-- One byte of `WF_LEGAL`, so that the set is not empty (R237). -/
opaque wfFirst : Byte
/-- The other bytes of `WF_LEGAL`. -/
opaque wfMore : List Byte
/-- The first pair of `LP_ENTER_SEQ(wf)`. -/
opaque lpEnterFirst : Byte → Byte × Byte
/-- The further pairs of `LP_ENTER_SEQ(wf)`; the first fourteen count, so that the list has at most 15 (R237). -/
opaque lpEnterMore : Byte → List (Byte × Byte)
/-- The first pair of `LP_EXIT_SEQ`. -/
opaque lpExitFirst : Byte × Byte
/-- The further pairs of `LP_EXIT_SEQ`; the first fourteen count. -/
opaque lpExitMore : List (Byte × Byte)

/-- The parameters of this hardware: the normative values of R6, and the OPEN ones. Every assignment of the OPEN
parameters that R237 calls well-formed is an instance of this, and every instance is well-formed. -/
def params : Params where
  fsG := 2
  threshRaw := 628023312898483455
  mandSubscribe := 5
  mandMotion := 4
  skipCap := 50
  idExpected := idExpected
  regSignalPathReset := regSignalPathReset
  valSignalPathReset := valSignalPathReset
  regSmplrtDiv := regSmplrtDiv
  cfgSmplrtDiv := cfgSmplrtDiv
  regLpf := regLpf
  cfgLpf := cfgLpf
  regFsRange := regFsRange
  cfgFsRange := cfgFsRange
  regPwrMode := regPwrMode
  valPwrActive := valPwrActive
  regIdentity := regIdentity
  regAccelBase := BitVec.ofNat 8 accelBase.val
  wfLegal := wfFirst :: wfMore
  lpEnterSeq := fun wf => lpEnterFirst wf :: (lpEnterMore wf).take 14
  lpExitSeq := lpExitFirst :: lpExitMore.take 14

/-- Whether the transport turns from the write part of a read to its read part by a repeated START, or by STOP and
START: R50 allows both. -/
opaque repeatedStart : Bool

/-- The answer of the Bus Transport to a transaction the state lists no answer for: a free value of the whole
history, the device address and the transaction (R43; 93 U2). -/
opaque busOracle : List Event → BitVec 7 → MicroOp → BusAnswer

/-- The answer of the Subscriber Channel to a notification the state lists no answer for: a free value of the
whole history and the bytes (R52; 93 U3). -/
opaque chanOracle : List Event → RawSample → ChanAnswer

end Config

end Sys2Proof
end

