-- ==== Sys2Proof/Syntax.lean ====
section
/-! DEFINITION. The instructions: one constructor per row of spec/opcode_table.json, the nine host commands
(spec/30_encoding.md rule R75) and the two bus micro-operations (rules R80, R81). -/

namespace Sys2Proof

/-- An instruction of the FerrisSensor core. -/
inductive Instr where
  /-- INIT: bring the sensor up at a 7-bit bus address (R103, R104). -/
  | init (addr : BitVec 7)
  /-- RDACC: read the acceleration block (R107). -/
  | rdacc
  /-- LPENTER: enter cycled low-power mode with a wake-frequency selector (R110, R111). -/
  | lpenter (wf : Byte)
  /-- LPEXIT: return to active mode (R112). -/
  | lpexit
  /-- SUB: a client subscribed (R151). -/
  | sub
  /-- UNSUB: the subscription ended (R152). -/
  | unsub
  /-- EVAL: evaluate a sample given by the host (R153, R154). -/
  | eval (sample : RawSample)
  /-- POLL: read the sensor, then evaluate (R165). -/
  | poll
  /-- RDREG: read a core register by number (R180). -/
  | rdreg (rn : BitVec 4)
  /-- BUS.WRITE: one register write on the bus (R45). -/
  | busWrite (reg val : Byte)
  /-- BUS.READ: one register read on the bus, of one or six bytes (R46). -/
  | busRead (reg : Byte) (len : ReadLen)
  deriving DecidableEq, Repr, Inhabited

end Sys2Proof
end

