-- ==== Sys2Proof/Decode.lean ====
section
/-! DEFINITION. Decoding and encoding (spec/30_encoding.md). A host command is one 64-bit word; a bus
micro-operation is a list of one or two bytes with a read length beside it. Decoding is total: a word or byte
list that is no instruction is rejected by name. -/

namespace Sys2Proof

/-- What stands at the core's input: a 64-bit command word (R70, R71), or, for a micro-operation on its own, the
write-side bytes and the number of bytes to read (R80, R81; log entry 4). -/
inductive Encoding where
  | command (w : BitVec 64)
  | transfer (bytes : List Byte) (readLen : Nat)
  deriving DecidableEq, Repr, Inhabited

/-- Why a word is no instruction. -/
inductive Reject where
  /-- A reserved opcode (R76). -/
  | illegalCommand
  /-- A legal opcode other than RDREG with a must-be-zero bit set (R77). -/
  | illegalOperand
  /-- RDREG with a must-be-zero bit set (R181). -/
  | illegalRdreg
  /-- A byte list and read length that are no micro-operation (R45, R46). -/
  | malformedTransfer
  deriving DecidableEq, Repr, Inhabited

/-- `B0 ‖ B1 ‖ B2 ‖ B3 ‖ B4 ‖ B5` (R12, R73). -/
def RawSample.pack (r : RawSample) : BitVec 48 :=
  r.b0 ++ r.b1 ++ r.b2 ++ r.b3 ++ r.b4 ++ r.b5

/-- The six bytes of a 48-bit payload, `B0` in bits [47:40] (R73). -/
def RawSample.unpack (p : BitVec 48) : RawSample where
  b0 := p.extractLsb' 40 8
  b1 := p.extractLsb' 32 8
  b2 := p.extractLsb' 24 8
  b3 := p.extractLsb' 16 8
  b4 := p.extractLsb' 8 8
  b5 := p.extractLsb' 0 8

/-- The bytes of a sample in bus order. -/
def RawSample.bytes (r : RawSample) : List Byte :=
  [r.b0, r.b1, r.b2, r.b3, r.b4, r.b5]

/-- The number of bytes a read length asks for (R46). -/
def ReadLen.toNat (n : ReadLen) : Nat :=
  match n with
  | .one => 1
  | .six => Config.sampleLen

/-- `OPC`, bits [63:56] (R71). -/
def opcode (w : BitVec 64) : BitVec 8 := w.extractLsb' 56 8

/-- `RSV`, bits [55:48] (R71). -/
def reserved (w : BitVec 64) : BitVec 8 := w.extractLsb' 48 8

/-- `PAY`, bits [47:0] (R71). -/
def payload (w : BitVec 64) : BitVec 48 := w.extractLsb' 0 48

/-- Accept `i` when the must-be-zero bits are zero, else reject with `r`. -/
def accept (mustBeZero : Bool) (r : Reject) (i : Instr) : Except Reject Instr :=
  if mustBeZero then .ok i else .error r

/-- Decode a command word: the opcode first (R75, R76), then the must-be-zero bits of its format (R71, R77). -/
def decode (w : BitVec 64) : Except Reject Instr :=
  let rsv0 := reserved w == 0#8
  let pay0 := payload w == 0#48
  if opcode w = 0x01#8 then
    accept (rsv0 && (payload w).extractLsb' 7 41 == 0#41) .illegalOperand (.init ((payload w).extractLsb' 0 7))
  else if opcode w = 0x02#8 then accept (rsv0 && pay0) .illegalOperand .rdacc
  else if opcode w = 0x03#8 then
    accept (rsv0 && (payload w).extractLsb' 8 40 == 0#40) .illegalOperand (.lpenter ((payload w).extractLsb' 0 8))
  else if opcode w = 0x04#8 then accept (rsv0 && pay0) .illegalOperand .lpexit
  else if opcode w = 0x05#8 then accept (rsv0 && pay0) .illegalOperand .sub
  else if opcode w = 0x06#8 then accept (rsv0 && pay0) .illegalOperand .unsub
  else if opcode w = 0x07#8 then accept rsv0 .illegalOperand (.eval (RawSample.unpack (payload w)))
  else if opcode w = 0x08#8 then accept (rsv0 && pay0) .illegalOperand .poll
  else if opcode w = 0x09#8 then
    accept (rsv0 && (payload w).extractLsb' 4 44 == 0#44) .illegalRdreg (.rdreg ((payload w).extractLsb' 0 4))
  else .error .illegalCommand

/-- Decode a micro-operation: `[reg, val]` with nothing to read is BUS.WRITE, `[reg]` with 1 or 6 bytes to read
is BUS.READ (R80, R81). -/
def decodeTransfer (bytes : List Byte) (readLen : Nat) : Except Reject Instr :=
  match bytes with
  | [reg, val] => accept (readLen == 0) .malformedTransfer (.busWrite reg val)
  | [reg] =>
    if readLen = ReadLen.one.toNat then .ok (.busRead reg .one)
    else accept (readLen == ReadLen.six.toNat) .malformedTransfer (.busRead reg .six)
  | _ => .error .malformedTransfer

/-- Decode whatever stands at the core's input. -/
def decodeEncoding (e : Encoding) : Except Reject Instr :=
  match e with
  | .command w => decode w
  | .transfer bytes n => decodeTransfer bytes n

/-- A command word: `OPC ‖ 0x00 ‖ PAY` (R71, R83). -/
def commandWord (opc : BitVec 8) (pay : BitVec 48) : BitVec 64 := opc ++ 0x00#8 ++ pay

/-- The encoding of an instruction (R71, R80, R81, R83). -/
def encode (i : Instr) : Encoding :=
  match i with
  | .init addr => .command (commandWord 0x01#8 (addr.setWidth 48))
  | .rdacc => .command (commandWord 0x02#8 0#48)
  | .lpenter wf => .command (commandWord 0x03#8 (wf.setWidth 48))
  | .lpexit => .command (commandWord 0x04#8 0#48)
  | .sub => .command (commandWord 0x05#8 0#48)
  | .unsub => .command (commandWord 0x06#8 0#48)
  | .eval sample => .command (commandWord 0x07#8 sample.pack)
  | .poll => .command (commandWord 0x08#8 0#48)
  | .rdreg rn => .command (commandWord 0x09#8 (rn.setWidth 48))
  | .busWrite reg val => .transfer [reg, val] 0
  | .busRead reg len => .transfer [reg] len.toNat

/-- `match` and `mask` of an instruction's row in spec/opcode_table.json; the two micro-operations have none
(every 16-bit or 8-bit pattern is one). -/
def tableRow (i : Instr) : Option (BitVec 64 × BitVec 64) :=
  match i with
  | .init _ => some (0x0100000000000000#64, 0xFFFFFFFFFFFFFF80#64)
  | .rdacc => some (0x0200000000000000#64, 0xFFFFFFFFFFFFFFFF#64)
  | .lpenter _ => some (0x0300000000000000#64, 0xFFFFFFFFFFFFFF00#64)
  | .lpexit => some (0x0400000000000000#64, 0xFFFFFFFFFFFFFFFF#64)
  | .sub => some (0x0500000000000000#64, 0xFFFFFFFFFFFFFFFF#64)
  | .unsub => some (0x0600000000000000#64, 0xFFFFFFFFFFFFFFFF#64)
  | .eval _ => some (0x0700000000000000#64, 0xFFFF000000000000#64)
  | .poll => some (0x0800000000000000#64, 0xFFFFFFFFFFFFFFFF#64)
  | .rdreg _ => some (0x0900000000000000#64, 0xFFFFFFFFFFFFFFF0#64)
  | .busWrite _ _ => none
  | .busRead _ _ => none

/-- The encoding that `nbits` bits `w` of an opcode-table row stand for: 64 bits are a command word, 16 bits the
two bytes of BUS.WRITE with the first byte in the high half (R80), 8 bits the one byte of BUS.READ, whose read
length is no bit of the row and is taken as 1 (log entry 5). -/
def tableEncoding (nbits w : Nat) : Encoding :=
  if nbits = 64 then .command (BitVec.ofNat 64 w)
  else if nbits = 16 then .transfer [BitVec.ofNat 8 (w / 256), BitVec.ofNat 8 w] 0
  else if nbits = 8 then .transfer [BitVec.ofNat 8 w] 1
  else .transfer [] 0

/-- The instruction the decoder reads from an opcode-table row's bits. -/
def decodeTableWord (nbits w : Nat) : Option Instr :=
  (decodeEncoding (tableEncoding nbits w)).toOption

end Sys2Proof
end

