-- ==== Sys2Proof/Machine/State.lean ====
section
/-! DEFINITION. The state of the FerrisSensor core (spec/10_state.md rule R11), the agents' pending inputs and
answers, what the core has put out, the status and decision codes by name, the reasons a step can stop, and the
state after reset (spec/70_reset_and_hazards.md rule R220). -/

namespace Sys2Proof.Machine

/-- The eleven registers of R11, at their widths, in the order of their numbers 0 to 10. -/
structure Regs where
  /-- Register 0, the status of the most recent command other than RDREG (R20). -/
  err : BitVec 4
  /-- Register 1, the driver state: 0 UNINIT, 1 ACTIVE, 2 CYCLED_LP (R21). -/
  drv : BitVec 2
  /-- Register 2, the 7-bit bus address of the sensor, unshifted (R22). -/
  devaddr : BitVec 7
  /-- Register 3, 1 while a subscription is active (R23). -/
  subd : BitVec 1
  /-- Register 4, `mandatory_remaining` (R14). -/
  mand : BitVec 3
  /-- Register 5, `skipped_count` (R15). -/
  skip : BitVec 6
  /-- Register 6, the X axis of `last_accepted`, raw (R13). -/
  lax : BitVec 16
  /-- Register 7, the Y axis (R13). -/
  lay : BitVec 16
  /-- Register 8, the Z axis (R13). -/
  laz : BitVec 16
  /-- Register 9, the last RawSample read in full (R12). -/
  sample : BitVec 48
  /-- Register 10, the step counter of the micro-sequencer (R18). -/
  seq : BitVec 4
  deriving DecidableEq, Repr, Inhabited

/-- What can happen at the core's input (R70, R221, R226). -/
inductive Input where
  /-- An encoding is presented: a command word of the host; a micro-operation on its own is no host input (R82)
  and stands here only so that it can be run by itself (log entry 4). -/
  | present (e : Encoding)
  /-- The reset input is asserted while the core is idle (R221). -/
  | reset
  /-- A command word is issued and the reset input is asserted after `calls` of its bus transactions and
  notifications were answered (R221). -/
  | cut (w : BitVec 64) (calls : Nat)
  deriving DecidableEq, Repr, Inhabited

/-- The machine's state: the registers; the host's pending inputs and the two oracles' pending answers, first
one next; the responses and the event history so far, oldest first (R10, R27, R43, R52, R56, R227). -/
structure State where
  regs : Regs
  inputs : List Input
  busIn : List BusAnswer
  chanIn : List ChanAnswer
  responses : List (BitVec 64)
  events : List Event
  deriving DecidableEq, Repr, Inhabited

/-- The status codes by name (R191). -/
inductive Status where
  | ok
  | busError
  | identityMismatch
  | channelError
  | notReady
  | illegalOperand
  | illegalCommand
  deriving DecidableEq, Repr, Inhabited

/-- The decision codes by name (R74). -/
inductive Decision where
  | none
  | inert
  | skip
  | send
  deriving DecidableEq, Repr, Inhabited

/-- The reasons the machine can stop with a fault: there is none. No error halts the core; every one is a status
in the response (R190, R191). -/
inductive Fault where
  deriving DecidableEq, Repr

/-- The reasons a step can be refused. -/
inductive Refusal where
  /-- Raised by nobody: every instruction has a meaning. -/
  | notModelled (mnemonic : String)
  /-- Raised by the input port when a byte list that is neither BUS.WRITE nor BUS.READ is presented as a
  micro-operation. The core never forms one (R45, R46, R82) and the spec gives it no effect: safe. -/
  | malformedTransfer
  deriving DecidableEq, Repr

/-- Every register at its reset value (R220). -/
def Regs.reset : Regs where
  err := 0#4
  drv := 0#2
  devaddr := 0#7
  subd := 0#1
  mand := 0#3
  skip := 0#6
  lax := 0#16
  lay := 0#16
  laz := 0#16
  sample := 0#48
  seq := 0#4

/-- The machine right after power-up: the registers at their reset values (R220), nothing issued and nothing put
out yet, no answer of the oracles fixed (R222; log entries 2 and 3). -/
def State.reset : State where
  regs := Regs.reset
  inputs := []
  busIn := []
  chanIn := []
  responses := []
  events := []

end Sys2Proof.Machine
end

