-- ==== Sys2Proof/Machine/Ops.lean ====
section
/-! DEFINITION. The named operations the meanings are made of: the register writes, the response word, ending a
command with a status (the spec's `respond` and `raise`: the one way an error is taken), the two bus
micro-operations, the notification, and the core reset. -/

namespace Sys2Proof.Machine

/-! ## Codes -/

/-- The numeric status codes (R74, R191). -/
def Status.code (st : Status) : BitVec 4 :=
  match st with
  | .ok => 0#4
  | .busError => 1#4
  | .identityMismatch => 2#4
  | .channelError => 3#4
  | .notReady => 4#4
  | .illegalOperand => 5#4
  | .illegalCommand => 6#4

/-- The numeric decision codes (R74). -/
def Decision.code (d : Decision) : BitVec 4 :=
  match d with
  | .none => 0#4
  | .inert => 1#4
  | .skip => 2#4
  | .send => 3#4

/-- `UNINIT` (R21). -/
def drvUninit : BitVec 2 := 0#2
/-- `ACTIVE` (R21). -/
def drvActive : BitVec 2 := 1#2
/-- `CYCLED_LP` (R21). -/
def drvCycledLp : BitVec 2 := 2#2

/-! ## Register writes: one per register (R8, R11) -/

def State.setErr (v : BitVec 4) (s : State) : State := { s with regs := { s.regs with err := v } }
def State.setDrv (v : BitVec 2) (s : State) : State := { s with regs := { s.regs with drv := v } }
def State.setDevaddr (v : BitVec 7) (s : State) : State := { s with regs := { s.regs with devaddr := v } }
def State.setSubd (v : BitVec 1) (s : State) : State := { s with regs := { s.regs with subd := v } }
def State.setMand (v : BitVec 3) (s : State) : State := { s with regs := { s.regs with mand := v } }
def State.setSkip (v : BitVec 6) (s : State) : State := { s with regs := { s.regs with skip := v } }
def State.setLax (v : BitVec 16) (s : State) : State := { s with regs := { s.regs with lax := v } }
def State.setLay (v : BitVec 16) (s : State) : State := { s with regs := { s.regs with lay := v } }
def State.setLaz (v : BitVec 16) (s : State) : State := { s with regs := { s.regs with laz := v } }
def State.setSample (v : BitVec 48) (s : State) : State := { s with regs := { s.regs with sample := v } }
def State.setSeq (v : BitVec 4) (s : State) : State := { s with regs := { s.regs with seq := v } }

/-! ## Ending a command -/

/-- The response word: `STATUS`, `DECISION`, eight zero bits, `DATA` (R74). -/
def responseWord (st : Status) (d : Decision) (data : BitVec 48) : BitVec 64 :=
  st.code ++ d.code ++ 0#8 ++ data

/-- Put out a response word and nothing else; RDREG ends with this alone (R180, R181). -/
def respond (st : Status) (d : Decision) (data : BitVec 48) (s : State) : State :=
  { s with responses := s.responses ++ [responseWord st d data] }

/-- `raise`: the status code goes to `ERR`, the response word carries it, the command is over, and register
writes made before stand (R190). There is no vector, no saved state, and so no return from it (R201). -/
def raise (st : Status) (d : Decision) (data : BitVec 48) (s : State) : State :=
  respond st d data (s.setErr st.code)

/-- `x[ERR] <- 0 ; respond(OK, d, data)`: the normal end of every command but RDREG. -/
def complete (d : Decision) (data : BitVec 48) (s : State) : State :=
  raise .ok d data s

/-! ## The bus -/

/-- The Bus Transport's answer to `op`: the next answer the state lists, or, when it lists none, the oracle's
(R10, R43; log entry 2). -/
def busAnswer (op : MicroOp) (s : State) : BusAnswer :=
  match s.busIn with
  | a :: _ => a
  | [] => Config.busOracle s.events s.regs.devaddr op

/-- What the core receives of an answer: nothing on a write, the first byte or all six on a read (R45, R46, R51). -/
def busResult (op : MicroOp) (a : BusAnswer) : BusResult :=
  match a with
  | .fail => .fail
  | .ok data =>
    match op with
    | .write _ _ => .ok []
    | .read _ len => .ok (data.bytes.take len.toNat)

/-- The step counter after a transaction: one more when it succeeded, unchanged when it failed (R18, R45, R46). -/
def seqAfter (a : BusAnswer) (seq : BitVec 4) : BitVec 4 :=
  match a with
  | .fail => seq
  | .ok _ => seq + 1#4

/-- One bus transaction at the address in `DEVADDR`: its answer, and the state with the answer consumed, the
event recorded and `SEQ` stepped (R45, R46, R56). -/
def transact (op : MicroOp) (s : State) : BusAnswer × State :=
  let a := busAnswer op s
  (a, { s with
        regs := { s.regs with seq := seqAfter a s.regs.seq }
        busIn := s.busIn.tail
        events := s.events ++ [.bus s.regs.devaddr op (busResult op a)] })

/-- `MemWrite(reg, 1, val)`: true when the transport answered `ok` (R45). -/
def memWrite (reg val : Byte) (s : State) : Bool × State :=
  match transact (.write reg val) s with
  | (.ok _, s') => (true, s')
  | (.fail, s') => (false, s')

/-- `MemRead(reg, 1)`: the byte read, or nothing when the transport failed (R46). -/
def memReadByte (reg : Byte) (s : State) : Option Byte × State :=
  match transact (.read reg .one) s with
  | (.ok data, s') => (some data.b0, s')
  | (.fail, s') => (none, s')

/-- `MemRead(reg, 6)`: the six bytes read, or nothing when the transport failed (R46, R51). -/
def memReadSample (reg : Byte) (s : State) : Option RawSample × State :=
  match transact (.read reg .six) s with
  | (.ok data, s') => (some data, s')
  | (.fail, s') => (none, s')

/-- The writes of a step list in ascending order, each once, stopping at the first that fails: true when all
succeeded (R101, R115). -/
def writeAll (pairs : List (Byte × Byte)) (s : State) : Bool × State :=
  match pairs with
  | [] => (true, s)
  | (reg, val) :: rest =>
    match memWrite reg val s with
    | (true, s') => writeAll rest s'
    | (false, s') => (false, s')

/-! ## The Subscriber Channel -/

/-- The channel's answer to a notification: the next answer the state lists, or the oracle's (R52; log entry 2). -/
def chanAnswer (bytes : RawSample) (s : State) : ChanAnswer :=
  match s.chanIn with
  | a :: _ => a
  | [] => Config.chanOracle s.events bytes

/-- `Notify(bytes)`: its answer, and the state with the answer consumed and the event recorded (R52, R86). -/
def notify (bytes : RawSample) (s : State) : ChanAnswer × State :=
  let a := chanAnswer bytes s
  (a, { s with chanIn := s.chanIn.tail, events := s.events ++ [.notify bytes a] })

/-! ## Core reset -/

/-- Core reset: every register takes its reset value; no transaction, no notification, no response (R220 to
R222). -/
def coreReset (s : State) : State := { s with regs := Regs.reset }

end Sys2Proof.Machine
end

