-- ==== Sys2Proof/Machine/BusOps.lean ====
section
/-! DEFINITION. The two bus micro-operations run on their own (spec/20_memory.md rules R45, R46; log entry 4): one
transaction at the address in DEVADDR; a failure raises BusError. -/

namespace Sys2Proof.Machine

/-- BUS.WRITE: on `ok` the micro-operation is complete, on `fail` it raises `BusError` (R45). -/
def execBusWrite (reg val : Byte) (s : State) : Host.Outcome State Fault Refusal :=
  .next (match memWrite reg val s with
    | (true, s1) => s1
    | (false, s1) => raise .busError .none 0#48 s1)

/-- BUS.READ: on `ok` the bytes are received (the event history holds them), on `fail` it raises `BusError`
(R46). -/
def execBusRead (reg : Byte) (len : ReadLen) (s : State) : Host.Outcome State Fault Refusal :=
  .next (match transact (.read reg len) s with
    | (.ok _, s1) => s1
    | (.fail, s1) => raise .busError .none 0#48 s1)

end Sys2Proof.Machine
end

