-- ==== Sys2Proof/Machine/Operands.lean ====
section
/-! DEFINITION. The operand forms: a core register by number (spec/43_host_access.md rule R180), the step lists
a driver command walks (spec/40_driver.md rule R101), and the pseudo-instruction EVALXYZ and the assembler lines
(spec/30_encoding.md rules R83, R84). -/

namespace Sys2Proof.Machine

/-- The register with number `rn`, zero-extended from its own width to 48 bits; 11 to 15 name none (R11, R180). -/
def readReg (rn : BitVec 4) (r : Regs) : Option (BitVec 48) :=
  match rn.toNat with
  | 0 => some (r.err.setWidth 48)
  | 1 => some (r.drv.setWidth 48)
  | 2 => some (r.devaddr.setWidth 48)
  | 3 => some (r.subd.setWidth 48)
  | 4 => some (r.mand.setWidth 48)
  | 5 => some (r.skip.setWidth 48)
  | 6 => some (r.lax.setWidth 48)
  | 7 => some (r.lay.setWidth 48)
  | 8 => some (r.laz.setWidth 48)
  | 9 => some r.sample
  | 10 => some (r.seq.setWidth 48)
  | _ => none

/-- The five configuration writes of INIT, steps 0 to 4 (R101, R104). -/
def initWrites (P : Params) : List (Byte × Byte) :=
  [(P.regSignalPathReset, P.valSignalPathReset), (P.regSmplrtDiv, P.cfgSmplrtDiv), (P.regLpf, P.cfgLpf),
   (P.regFsRange, P.cfgFsRange), (P.regPwrMode, P.valPwrActive)]

/-- The BUS.WRITE micro-operations of a list of pairs. -/
def writesOf (pairs : List (Byte × Byte)) : List MicroOp :=
  pairs.map (fun p => .write p.1 p.2)

/-- The step list of a command (R101); a command that uses no bus transaction has none. -/
def stepList (P : Params) (i : Instr) : List MicroOp :=
  match i with
  | .init _ => writesOf (initWrites P) ++ [.read P.regIdentity .one]
  | .rdacc => [.read P.regAccelBase .six]
  | .lpenter wf => writesOf (P.lpEnterSeq wf)
  | .lpexit => writesOf P.lpExitSeq
  | .sub => []
  | .unsub => []
  | .eval _ => []
  | .poll => [.read P.regAccelBase .six]
  | .rdreg _ => []
  | .busWrite reg val => [.write reg val]
  | .busRead reg len => [.read reg len]

/-- A line of the assembler of R83: a command, the pseudo-instruction EVALXYZ with three signed axis values, or a
raw word. -/
inductive AsmLine where
  | instr (i : Instr)
  | evalxyz (x y z : Int)
  | word (v : BitVec 64)
  deriving DecidableEq, Repr

/-- The bytes of a sample with the given axis values, high byte first (R84). -/
def sampleOf (x y z : Int) : RawSample :=
  RawSample.unpack (BitVec.ofInt 16 x ++ BitVec.ofInt 16 y ++ BitVec.ofInt 16 z)

/-- The encoding an assembler line stands for (R83, R84). -/
def assemble (l : AsmLine) : Encoding :=
  match l with
  | .instr i => encode i
  | .evalxyz x y z => encode (.eval (sampleOf x y z))
  | .word v => .command v

end Sys2Proof.Machine
end

