-- ==== Sys2Proof/Machine/Driver.lean ====
section
/-! DEFINITION. The sensor driver commands INIT, RDACC, LPENTER and LPEXIT (spec/40_driver.md). Each is given for
any parameters and then for this hardware's. -/

namespace Sys2Proof.Machine

/-- The precondition of RDACC, LPENTER, LPEXIT and POLL: refused with `NotReady` while the driver is `UNINIT`
(R102). -/
def whenReady (run : State → State) (s : State) : State :=
  if s.regs.drv = drvUninit then raise .notReady .none 0#48 s else run s

/-- INIT with the parameters `P` (R104 to R106). -/
def runInit (P : Params) (addr : BitVec 7) (s : State) : State :=
  match writeAll (initWrites P) (((s.setDevaddr addr).setDrv drvUninit).setSeq 0#4) with
  | (false, s1) => raise .busError .none 0#48 s1
  | (true, s1) =>
    match memReadByte P.regIdentity s1 with
    | (none, s2) => raise .busError .none 0#48 s2
    | (some id, s2) =>
      if id = P.idExpected then complete .none 0#48 (s2.setDrv drvActive)
      else raise .identityMismatch .none 0#48 s2

/-- The burst read RDACC and POLL share: step 0 of their step list, and `SAMPLE` written only when all six bytes
came (R12, R101, R107). -/
def readBlock (P : Params) (s : State) : Option RawSample × State :=
  match memReadSample P.regAccelBase (s.setSeq 0#4) with
  | (some r, s1) => (some r, s1.setSample r.pack)
  | (none, s1) => (none, s1)

/-- RDACC once the driver is ready (R107, R108). -/
def readAndReport (P : Params) (s : State) : State :=
  match readBlock P s with
  | (some r, s1) => complete .none r.pack s1
  | (none, s1) => raise .busError .none 0#48 s1

/-- RDACC with the parameters `P` (R102, R107, R108). -/
def runRdacc (P : Params) (s : State) : State := whenReady (readAndReport P) s

/-- The writes of a power transition; `DRV` takes the new state only when all succeeded (R111 to R113). -/
def powerTransition (pairs : List (Byte × Byte)) (drv : BitVec 2) (s : State) : State :=
  match writeAll pairs (s.setSeq 0#4) with
  | (true, s1) => complete .none 0#48 (s1.setDrv drv)
  | (false, s1) => raise .busError .none 0#48 s1

/-- LPENTER with the parameters `P`: the operand check comes before `NotReady` (R78, R110, R111). -/
def runLpenter (P : Params) (wf : Byte) (s : State) : State :=
  if P.wfLegal.contains wf then whenReady (powerTransition (P.lpEnterSeq wf) drvCycledLp) s
  else raise .illegalOperand .none 0#48 s

/-- LPEXIT with the parameters `P` (R112). -/
def runLpexit (P : Params) (s : State) : State := whenReady (powerTransition P.lpExitSeq drvActive) s

/-- INIT (R104). -/
def execInit (addr : BitVec 7) (s : State) : Host.Outcome State Fault Refusal :=
  .next (runInit Config.params addr s)

/-- RDACC (R107). -/
def execRdacc (s : State) : Host.Outcome State Fault Refusal :=
  .next (runRdacc Config.params s)

/-- LPENTER (R111). -/
def execLpenter (wf : Byte) (s : State) : Host.Outcome State Fault Refusal :=
  .next (runLpenter Config.params wf s)

/-- LPEXIT (R112). -/
def execLpexit (s : State) : Host.Outcome State Fault Refusal :=
  .next (runLpexit Config.params s)

end Sys2Proof.Machine
end

