-- ==== Sys2Proof/Machine/HostAccess.lean ====
section
/-! DEFINITION. Host access to the registers: RDREG (spec/43_host_access.md). -/

namespace Sys2Proof.Machine

/-- RDREG: answer the register's bit pattern; a number that names no register is `IllegalOperand`. No register is
written either way, `ERR` included (R180, R181). -/
def execRdreg (rn : BitVec 4) (s : State) : Host.Outcome State Fault Refusal :=
  match readReg rn s.regs with
  | some v => .next (respond .ok .none v s)
  | none => .next (respond .illegalOperand .none 0#48 s)

end Sys2Proof.Machine
end

