-- ==== Sys2Proof/Machine/Classifier.lean ====
section
/-! DEFINITION. The sample decoder and the motion classifier (spec/41_decoder_classifier.md): DECODE, CROSS, MAG2
and LARGE on exact integers, the physical value of an axis, and the same datapath at the hardware's widths
(rule R140). -/

namespace Sys2Proof.Machine

/-- `s16(h, l)`: the two bytes, high byte first, as a two's complement integer (R8, R130). -/
def s16 (h l : Byte) : Int := (h ++ l).toInt

/-- `DECODE` (R130). -/
def decodeSample (r : RawSample) : AccelVec where
  x := s16 r.b0 r.b1
  y := s16 r.b2 r.b3
  z := s16 r.b4 r.b5

/-- The physical value of a raw axis value, in g, an exact rational the hardware never forms (R131). -/
def physical (P : Params) (raw : Int) : Rat := raw * P.fsG / 32768

/-- `CROSS(a, b)` (R133). -/
def cross (a b : AccelVec) : AccelVec where
  x := a.y * b.z - a.z * b.y
  y := a.z * b.x - a.x * b.z
  z := a.x * b.y - a.y * b.x

/-- `MAG2(a, b)`, the squared magnitude of the cross product (R135). -/
def mag2 (a b : AccelVec) : Int :=
  let c := cross a b
  c.x * c.x + c.y * c.y + c.z * c.z

/-- `LARGE(a, b)`: strictly more than the threshold (R138). -/
def large (P : Params) (a b : AccelVec) : Bool := decide ((P.threshRaw : Int) < mag2 a b)

/-! ## The datapath at the hardware's widths (R7, R140) -/

/-- A 16 x 16 to 32-bit signed product. -/
def prod32 (a b : BitVec 16) : BitVec 32 := a.signExtend 32 * b.signExtend 32

/-- The difference of two products in 33 bits. -/
def diff33 (p q : BitVec 32) : BitVec 33 := p.signExtend 33 - q.signExtend 33

/-- The square of a 33-bit component in 64 bits. -/
def square64 (c : BitVec 33) : BitVec 64 := c.signExtend 64 * c.signExtend 64

/-- The squared magnitude as the 64-bit unsigned accumulator holds it. -/
def mag2Datapath (ax ay az bx by' bz : BitVec 16) : BitVec 64 :=
  square64 (diff33 (prod32 ay bz) (prod32 az by'))
    + square64 (diff33 (prod32 az bx) (prod32 ax bz))
    + square64 (diff33 (prod32 ax by') (prod32 ay bx))

end Sys2Proof.Machine
end

