-- ==== Sys2Proof/Machine/Flags.lean ====
section
/-! DEFINITION. The two predicates of one evaluation, which no register keeps (spec/10_state.md rule R19), and the
value of MAND between them (spec/42_throttle.md rules R156 to R158). -/

namespace Sys2Proof.Machine

/-- `last_accepted` as signed integers (R13). -/
def lastAccepted (r : Regs) : AccelVec where
  x := r.lax.toInt
  y := r.lay.toInt
  z := r.laz.toInt

/-- `large_motion`: the sample against the last one sent, not the last one evaluated (R156). -/
def largeMotion (P : Params) (sample : RawSample) (r : Regs) : Bool :=
  large P (decodeSample sample) (lastAccepted r)

/-- `m`: `MAND` after step 3, raised to `MAND_MOTION` on large motion (R157). -/
def raisedMand (P : Params) (sample : RawSample) (r : Regs) : Nat :=
  if largeMotion P sample r then max r.mand.toNat P.mandMotion else r.mand.toNat

/-- `send`, the decision of step 4 (R158). -/
def sendDecision (P : Params) (sample : RawSample) (r : Regs) : Bool :=
  decide (0 < raisedMand P sample r) || largeMotion P sample r || decide (P.skipCap ≤ r.skip.toNat)

end Sys2Proof.Machine
end

