-- ==== Sys2Proof/Machine/Throttle.lean ====
section
/-! DEFINITION. The notification throttle commands SUB, UNSUB, EVAL and POLL (spec/42_throttle.md). Each is given
for any parameters and then for this hardware's. -/

namespace Sys2Proof.Machine

/-- SUB with the parameters `P`: arm the throttle from scratch, with the zero sentinel (R151). -/
def runSub (P : Params) (s : State) : State :=
  complete .none 0#48
    ((((((s.setSubd 1#1).setSkip 0#6).setMand (BitVec.ofNat 3 P.mandSubscribe)).setLax 0#16).setLay 0#16).setLaz 0#16)

/-- UNSUB: the throttle becomes inert, the counters stay (R152). -/
def runUnsub (s : State) : State := complete .none 0#48 (s.setSubd 0#1)

/-- Step 5, the skip path: the skip count goes up, never past `SKIP_CAP` (R159). -/
def skipSample (P : Params) (s : State) : State :=
  s.setSkip (BitVec.ofNat 6 (min (s.regs.skip.toNat + 1) P.skipCap))

/-- The register writes of step 6, the send path (R160). -/
def acceptSample (P : Params) (sample : RawSample) (s : State) : State :=
  let m := raisedMand P sample s.regs
  let cur := decodeSample sample
  ((((s.setMand (BitVec.ofNat 3 (m - 1))).setSkip 0#6).setLax (BitVec.ofInt 16 cur.x)).setLay
    (BitVec.ofInt 16 cur.y)).setLaz (BitVec.ofInt 16 cur.z)

/-- The send path: the register writes, then one notification; its failure is reported and rolls nothing back
(R160, R161). -/
def sendSample (P : Params) (sample : RawSample) (data : BitVec 48) (s : State) : State :=
  match notify sample (acceptSample P sample s) with
  | (.ok, s1) => complete .send data s1
  | (.fail, s1) => raise .channelError .send data s1

/-- One evaluation of `sample`, the body of EVAL and the second half of POLL, answering `data` (R154, R155,
R165). -/
def evaluate (P : Params) (sample : RawSample) (data : BitVec 48) (s : State) : State :=
  if s.regs.subd = 0#1 then complete .inert data s
  else if sendDecision P sample s.regs then sendSample P sample data s
  else complete .skip data (skipSample P s)

/-- EVAL with the parameters `P` (R154). -/
def runEval (P : Params) (sample : RawSample) (s : State) : State := evaluate P sample 0#48 s

/-- POLL once the driver is ready: the burst read, then the evaluation of the bytes just read (R165 to R168). -/
def readAndEvaluate (P : Params) (s : State) : State :=
  match readBlock P s with
  | (some r, s1) => evaluate P r r.pack s1
  | (none, s1) => raise .busError .none 0#48 s1

/-- POLL with the parameters `P` (R102, R165). -/
def runPoll (P : Params) (s : State) : State := whenReady (readAndEvaluate P) s

/-- SUB (R151). -/
def execSub (s : State) : Host.Outcome State Fault Refusal :=
  .next (runSub Config.params s)

/-- UNSUB (R152). -/
def execUnsub (s : State) : Host.Outcome State Fault Refusal :=
  .next (runUnsub s)

/-- EVAL (R154). -/
def execEval (sample : RawSample) (s : State) : Host.Outcome State Fault Refusal :=
  .next (runEval Config.params sample s)

/-- POLL (R165). -/
def execPoll (s : State) : Host.Outcome State Fault Refusal :=
  .next (runPoll Config.params s)

end Sys2Proof.Machine
end

