-- ==== Sys2Proof/Machine/Dispatch.lean ====
section
/-! DEFINITION. One arm per instruction (spec/opcode_table.json). -/

namespace Sys2Proof.Machine

def exec (i : Instr) (s : State) : Host.Outcome State Fault Refusal :=
  match i with
  | .init addr => Sys2Proof.Machine.execInit addr s
  | .rdacc => Sys2Proof.Machine.execRdacc s
  | .lpenter wf => Sys2Proof.Machine.execLpenter wf s
  | .lpexit => Sys2Proof.Machine.execLpexit s
  | .sub => Sys2Proof.Machine.execSub s
  | .unsub => Sys2Proof.Machine.execUnsub s
  | .eval sample => Sys2Proof.Machine.execEval sample s
  | .poll => Sys2Proof.Machine.execPoll s
  | .rdreg rn => Sys2Proof.Machine.execRdreg rn s
  | .busWrite reg val => Sys2Proof.Machine.execBusWrite reg val s
  | .busRead reg len => Sys2Proof.Machine.execBusRead reg len s

end Sys2Proof.Machine
end

