-- ==== Sys2Proof/Machine/HostPort.lean ====
section
/-! DEFINITION. The core's input port: serving a command word, refusing one that is no instruction, and the reset
input, while idle and during a command (spec/30_encoding.md rules R70, R76 to R78; spec/70_reset_and_hazards.md
rules R221, R226). -/

namespace Sys2Proof.Machine

/-- What the core does with a word that is no instruction: it answers a status, and only `ERR` changes; for an
illegal RDREG not even that (R76, R77, R181). -/
def refuse (r : Reject) (s : State) : Host.Outcome State Fault Refusal :=
  match r with
  | .illegalCommand => .next (raise .illegalCommand .none 0#48 s)
  | .illegalOperand => .next (raise .illegalOperand .none 0#48 s)
  | .illegalRdreg => .next (respond .illegalOperand .none 0#48 s)
  | .malformedTransfer => .refused .malformedTransfer

/-- Serve what is presented: decode it, then run it or refuse it (R78). -/
def serveEncoding (e : Encoding) (s : State) : Host.Outcome State Fault Refusal :=
  match decodeEncoding e with
  | .ok i => exec i s
  | .error r => refuse r s

/-- Whether an event is a bus transaction. -/
def isBusEvent (e : Event) : Bool :=
  match e with
  | .bus _ _ _ => true
  | .notify _ _ => false

/-- A command that took the state from `s` to `done` is abandoned by reset after `calls` of its calls were
answered: those calls have happened, their answers are used up, the registers take their reset values, and
there is no response (R221, R222; log entry 6). -/
def abandon (calls : Nat) (s done : State) : State :=
  let happened := (done.events.drop s.events.length).take calls
  coreReset { s with
    busIn := s.busIn.drop (happened.countP isBusEvent)
    chanIn := s.chanIn.drop (happened.countP (fun e => !isBusEvent e))
    events := s.events ++ happened }

/-- A command word with the reset input asserted during it (R221). -/
def serveCut (w : BitVec 64) (calls : Nat) (s : State) : Host.Outcome State Fault Refusal :=
  match serveEncoding (.command w) s with
  | .next done => .next (abandon calls s done)
  | .fault f => .fault f
  | .refused r => .refused r

/-- Serve one input. -/
def serve (x : Input) (s : State) : Host.Outcome State Fault Refusal :=
  match x with
  | .present e => serveEncoding e s
  | .reset => .next (coreReset s)
  | .cut w calls => serveCut w calls s

end Sys2Proof.Machine
end

