-- ==== Sys2Proof/Machine/Step.lean ====
section
/-! DEFINITION. One step: the next input is taken and served to completion (spec/10_state.md rule R10: one
command = one step); with no input the core is idle and nothing changes (spec/60_exceptions.md rule R209). -/

namespace Sys2Proof.Machine

/-- One step of the machine. -/
def step (s : State) : Host.Outcome State Fault Refusal :=
  match s.inputs with
  | [] => .next s
  | x :: rest => serve x { s with inputs := rest }

/-- `s` with the instruction of an opcode-table row's bits as the next thing presented at the input. -/
def State.withFetchWord (s : State) (nbits w : Nat) : State :=
  { s with inputs := .present (tableEncoding nbits w) :: s.inputs }

end Sys2Proof.Machine
end

