-- ==== Sys2Proof/Machine/RefSensor.lean ====
section
/-! DEFINITION. The reference sensor and the reference channel of spec/20_memory.md rule R62: the test fixtures the
spec's vectors run against. They are not part of the hardware and no claim about a real part; they give the lists
of answers that a state can hold. The sensor's 256 registers are a list of (address, byte) cells in one canonical form. -/

namespace Sys2Proof.Machine

/-- The sensor's registers: cells with strictly rising addresses, none holding the value an unlisted address
reads as, which is 0 (R62: "initially all zero"). -/
abbrev Memory := List Host.Cell

/-- Read one register. -/
def readCell (m : Memory) (a : Nat) : Byte :=
  match m with
  | [] => 0#8
  | (k, v) :: rest => if k = a then v else readCell rest a

/-- Write one register, keeping the canonical form. -/
def writeCell (m : Memory) (a : Nat) (v : Byte) : Memory :=
  match m with
  | [] => if v = 0#8 then [] else [(a, v)]
  | (k, u) :: rest =>
    if a < k then (if v = 0#8 then (k, u) :: rest else (a, v) :: (k, u) :: rest)
    else if a = k then (if v = 0#8 then rest else (a, v) :: rest)
    else (k, u) :: writeCell rest a v

/-- The canonical form. -/
abbrev Memory.wf (m : Memory) : Prop :=
  (m.map Prod.fst).Pairwise (· < ·) ∧ ∀ c ∈ m, c.2 ≠ 0#8

/-- The reference sensor: its registers, the one bus address it answers at, the samples the harness will store
before the next block reads, and how many transactions are left before the one the harness makes fail. -/
structure RefSensor where
  dev : Memory
  addr : BitVec 7
  samples : List RawSample
  failAt : Option Nat
  deriving DecidableEq, Repr

/-- The array the sensor starts from: all zero but the identity register (R62). -/
def RefSensor.initialDev (P : Params) : Memory := writeCell [] P.regIdentity.toNat P.idExpected

/-- The sensor before a run: at its bus address, with the harness's samples and the transaction to fail. -/
def RefSensor.initial (P : Params) (addr : BitVec 7) (samples : List RawSample) (failAt : Option Nat) :
    RefSensor where
  dev := RefSensor.initialDev P
  addr := addr
  samples := samples
  failAt := failAt

/-- The six registers from `a` on. -/
def RefSensor.block (m : Memory) (a : Nat) : RawSample where
  b0 := readCell m a
  b1 := readCell m (a + 1)
  b2 := readCell m (a + 2)
  b3 := readCell m (a + 3)
  b4 := readCell m (a + 4)
  b5 := readCell m (a + 5)

/-- Store a sample into the acceleration block. -/
def RefSensor.store (m : Memory) (a : Nat) (r : RawSample) : Memory :=
  writeCell (writeCell (writeCell (writeCell (writeCell (writeCell m a r.b0) (a + 1) r.b1) (a + 2) r.b2)
    (a + 3) r.b3) (a + 4) r.b4) (a + 5) r.b5

/-- Before a read of the acceleration block the harness stores the next sample of its list (R62). -/
def RefSensor.prepare (P : Params) (op : MicroOp) (r : RefSensor) : RefSensor :=
  match op, r.samples with
  | .read reg .six, x :: rest =>
    if reg = P.regAccelBase then { r with dev := RefSensor.store r.dev reg.toNat x, samples := rest } else r
  | _, _ => r

/-- The sensor's answer to one transaction at the bus address `addr` (R62). -/
def RefSensor.answer (P : Params) (addr : BitVec 7) (op : MicroOp) (r : RefSensor) : BusAnswer × RefSensor :=
  let r1 := r.prepare P op
  let r2 := { r1 with failAt := match r1.failAt with | some (n + 1) => some n | _ => none }
  if r1.failAt = some 0 ∨ addr ≠ r1.addr then (.fail, r2)
  else
    match op with
    | .write reg val => (.ok default, { r2 with dev := writeCell r2.dev reg.toNat val })
    | .read reg _ => (.ok (RefSensor.block r2.dev reg.toNat), r2)

/-- The answers to a step list, up to the first failure, after which the core issues nothing more (R115). -/
def RefSensor.script (P : Params) (addr : BitVec 7) (ops : List MicroOp) (r : RefSensor) :
    List BusAnswer × RefSensor :=
  match ops with
  | [] => ([], r)
  | op :: rest =>
    match r.answer P addr op with
    | (.fail, r1) => ([.fail], r1)
    | (.ok d, r1) =>
      let (as, r2) := RefSensor.script P addr rest r1
      (.ok d :: as, r2)

/-- The reference channel: the harness flag `connected` (R62). -/
structure RefChannel where
  connected : Bool
  deriving DecidableEq, Repr

/-- The channel's answer to a notification: `ok` while `connected`, else `fail` (R62). -/
def RefChannel.answer (c : RefChannel) : ChanAnswer := if c.connected then .ok else .fail

/-- The answers to the notifications of a run, given the channel as the harness has set it at each of them. -/
def RefChannel.script (cs : List RefChannel) : List ChanAnswer := cs.map RefChannel.answer

end Sys2Proof.Machine
end

