-- ==== Sys2Proof/Machine/Wire.lean ====
section
/-! DEFINITION. The wire framing of a bus transaction, one level below the transport contract (spec/20_memory.md
rules R48 to R50, which the spec marks as general knowledge; log entry 10): what is seen on the wires, and what the
transport then answers. No meaning depends on it. The core sees only the answer (R47), so the view of a transaction
in the event history takes the line's behaviour as an argument. -/

namespace Sys2Proof.Machine

/-- What is seen on the two wires, in order. -/
inductive WireItem where
  | start
  | stop
  /-- The master finds the bus not free where it wants to send START, and sends nothing. -/
  | busy
  /-- A byte sent by the master, and whether the sensor acknowledged it. -/
  | sent (b : Byte) (acked : Bool)
  /-- A byte sent by the sensor, and whether the master acknowledged it. -/
  | received (b : Byte) (acked : Bool)
  deriving DecidableEq, Repr, Inhabited

/-- How the line and the sensor behave during one transaction (R49, R50): whether the bus is free at START, and
again where a read sends START after a STOP; whether the sensor acknowledges the address byte, the register byte,
and the third byte (a write's value, a read's second address byte); the bytes it sends. -/
structure WireLine where
  free : Bool
  freeAgain : Bool
  ackAddr : Bool
  ackReg : Bool
  ackThird : Bool
  data : RawSample
  deriving DecidableEq, Repr, Inhabited

/-- The address byte `x[DEVADDR] ‖ rw` (R48): `rw` is 0 for a write, 1 for a read. -/
def wireAddress (addr : BitVec 7) (rw : BitVec 1) : Byte := addr ++ rw

/-- The bits of a byte in the order they are sent, most significant first (R50). -/
def wireBits (b : Byte) : List Bool := (List.range 8).map (fun k => b.getLsbD (7 - k))

/-- Between the two parts of a read: a repeated START, or STOP then START (R50). -/
def wireTurn : List WireItem := if Config.repeatedStart then [.start] else [.stop, .start]

/-- The data bytes of a read: the master acknowledges each but the last (R50). -/
def wireData (bytes : List Byte) : List WireItem :=
  match bytes with
  | [] => []
  | [b] => [.received b false]
  | b :: rest => .received b true :: wireData rest

/-- Bytes sent one after another, each with the acknowledge it meets: what is seen, up to the first byte that is
not acknowledged, and whether all were (R49, R50). -/
def wireSend (bytes : List (Byte × Bool)) : List WireItem × Bool :=
  match bytes with
  | [] => ([], true)
  | (b, true) :: rest => (.sent b true :: (wireSend rest).1, (wireSend rest).2)
  | (b, false) :: _ => ([.sent b false], false)

/-- BUS.WRITE on the wire: START, address byte, register, value, STOP. A bus that is not free or a missing
acknowledge ends it, and the transport answers `fail` (R49). -/
def wireWrite (addr : BitVec 7) (reg val : Byte) (l : WireLine) : List WireItem × BusAnswer :=
  if l.free then
    match wireSend [(wireAddress addr 0#1, l.ackAddr), (reg, l.ackReg), (val, l.ackThird)] with
    | (w, true) => ([.start] ++ w ++ [.stop], .ok l.data)
    | (w, false) => ([.start] ++ w ++ [.stop], .fail)
  else ([.busy], .fail)

/-- The second part of a read: the address byte with `rw = 1`, then the bytes the sensor sends (R50). -/
def wireReadBytes (addr : BitVec 7) (len : ReadLen) (l : WireLine) : List WireItem × BusAnswer :=
  match wireSend [(wireAddress addr 1#1, l.ackThird)] with
  | (w, true) => (w ++ wireData (l.data.bytes.take len.toNat) ++ [.stop], .ok l.data)
  | (w, false) => (w ++ [.stop], .fail)

/-- BUS.READ on the wire: START, address byte, register, the turn, then the second part; a bus that is not free or
a missing acknowledge ends it with `fail` (R47, R50). -/
def wireRead (addr : BitVec 7) (reg : Byte) (len : ReadLen) (l : WireLine) : List WireItem × BusAnswer :=
  if l.free then
    match wireSend [(wireAddress addr 0#1, l.ackAddr), (reg, l.ackReg)] with
    | (w, true) =>
      if Config.repeatedStart || l.freeAgain then
        ([.start] ++ w ++ wireTurn ++ (wireReadBytes addr len l).1, (wireReadBytes addr len l).2)
      else ([.start] ++ w ++ [.stop, .busy], .fail)
    | (w, false) => ([.start] ++ w ++ [.stop], .fail)
  else ([.busy], .fail)

/-- A transaction on the wire: what is seen, and what the transport answers (R49, R50). -/
def wireTransaction (addr : BitVec 7) (op : MicroOp) (l : WireLine) : List WireItem × BusAnswer :=
  match op with
  | .write reg val => wireWrite addr reg val l
  | .read reg len => wireRead addr reg len l

/-- Whether the line lets `op` through: every START finds the bus free and every byte sent is acknowledged. -/
def WireLine.passes (op : MicroOp) (l : WireLine) : Bool :=
  l.free && l.ackAddr && l.ackReg && l.ackThird &&
    match op with
    | .write _ _ => true
    | .read _ _ => Config.repeatedStart || l.freeAgain

/-- What an event of the history looks like on the wires when the line behaved as `l`; nothing when the event is no
transaction or `l` does not give the answer the history records. -/
def wireOf (e : Event) (l : WireLine) : Option (List WireItem) :=
  match e with
  | .bus addr op result =>
    if busResult op (wireTransaction addr op l).2 = result then some (wireTransaction addr op l).1 else none
  | .notify _ _ => none

end Sys2Proof.Machine
end

