-- ==== Sys2Proof/Safety.lean ====
section
/-! DEFINITION. The terms in which claims are stated: the fields of a response word, the answers a list of
transactions meets, what a run of several instructions is, the invariants of the registers and of the event
history, and the table of what each command may change. -/

namespace Sys2Proof.Machine

/-! ## The response word (spec/30_encoding.md rule R74) -/

/-- `STATUS`, bits [63:60]. -/
def responseStatus (w : BitVec 64) : BitVec 4 := w.extractLsb' 60 4
/-- `DECISION`, bits [59:56]. -/
def responseDecision (w : BitVec 64) : BitVec 4 := w.extractLsb' 56 4
/-- `DATA`, bits [47:0]. -/
def responseData (w : BitVec 64) : BitVec 48 := w.extractLsb' 0 48

/-! ## Transactions in sequence -/

/-- The answers the transport gives to a list of transactions issued one after another from `s`, whatever it
answers, the listed answers first and free ones after (spec/20_memory.md rules R43, R56). -/
def answersTo (ops : List MicroOp) (s : State) : List BusAnswer :=
  match ops with
  | [] => []
  | op :: rest => busAnswer op s :: answersTo rest (transact op s).2

/-- The events of a list of transactions at one address with the given answers. -/
def eventsOf (addr : BitVec 7) (ops : List MicroOp) (answers : List BusAnswer) : List Event :=
  List.zipWith (fun op a => .bus addr op (busResult op a)) ops answers

/-- The six events of an INIT that succeeded at `addr`: every transaction answered `ok` and the identity byte was
the expected one (spec/40_driver.md rule R104). -/
def initEvents (P : Params) (addr : BitVec 7) : List Event :=
  [.bus addr (.write P.regSignalPathReset P.valSignalPathReset) (.ok []),
   .bus addr (.write P.regSmplrtDiv P.cfgSmplrtDiv) (.ok []),
   .bus addr (.write P.regLpf P.cfgLpf) (.ok []),
   .bus addr (.write P.regFsRange P.cfgFsRange) (.ok []),
   .bus addr (.write P.regPwrMode P.valPwrActive) (.ok []),
   .bus addr (.read P.regIdentity .one) (.ok [P.idExpected])]

/-- The instruction that is one micro-operation on its own. -/
def microInstr (op : MicroOp) : Instr :=
  match op with
  | .write reg val => .busWrite reg val
  | .read reg len => .busRead reg len

/-- Run instructions one after another (spec/70_reset_and_hazards.md rule R227). -/
def execAll (is : List Instr) (s : State) : Host.Outcome State Fault Refusal :=
  match is with
  | [] => .next s
  | i :: rest =>
    match exec i s with
    | .next t => execAll rest t
    | .fault f => .fault f
    | .refused r => .refused r

/-- Take `n` steps: whatever stands at the input is served, commands, refused words and resets alike. -/
def runSteps (n : Nat) (s : State) : Host.Outcome State Fault Refusal :=
  match n with
  | 0 => .next s
  | k + 1 =>
    match step s with
    | .next t => runSteps k t
    | .fault f => .fault f
    | .refused r => .refused r

/-! ## Invariants -/

/-- The throttle counters are bounded, and samples are skipped only when no send is mandatory (spec/10_state.md
rule R16; spec/95_test_vectors.md section 4). -/
def throttleInv (P : Params) (r : Regs) : Prop :=
  r.mand.toNat ≤ P.mandSubscribe ∧ r.skip.toNat ≤ P.skipCap ∧ (0 < r.skip.toNat → r.mand = 0#3)

/-- ERR and DRV hold codes that some rule writes (spec/10_state.md rules R20, R21). -/
def codesInv (r : Regs) : Prop := r.err.toNat ≤ 6 ∧ r.drv.toNat ≤ 2

/-- A transaction answered `ok` delivered exactly the bytes asked for (spec/20_memory.md rule R51). -/
def eventComplete (e : Event) : Bool :=
  match e with
  | .bus _ (.write _ _) (.ok bytes) => decide (bytes = [])
  | .bus _ (.read _ len) (.ok bytes) => decide (bytes.length = len.toNat)
  | .bus _ _ .fail => true
  | .notify _ _ => true

/-- Whether an event is a bus transaction at a device address other than `addr`. -/
def busElsewhere (addr : BitVec 7) (e : Event) : Bool :=
  match e with
  | .bus a _ _ => decide (a ≠ addr)
  | .notify _ _ => false

/-- A ready driver was verified: the history holds a complete INIT at the address in DEVADDR, and every later
transaction went to that address (spec/95_test_vectors.md section 6, property 5). -/
def verified (P : Params) (s : State) : Prop :=
  s.regs.drv ≠ drvUninit →
    ∃ before after, s.events = before ++ initEvents P s.regs.devaddr ++ after ∧
      ∀ e ∈ after, busElsewhere s.regs.devaddr e = false

/-! ## What each command may write (spec/10_state.md rule R11) -/

/-- `r'` differs from `r` at most in the registers R11 lists as written by `i`; a micro-operation on its own steps
SEQ, or writes ERR when it fails. -/
def changesOnlyListed (i : Instr) (r r' : Regs) : Prop :=
  match i with
  | .init _ => r' = { r with err := r'.err, drv := r'.drv, devaddr := r'.devaddr, seq := r'.seq }
  | .rdacc => r' = { r with err := r'.err, sample := r'.sample, seq := r'.seq }
  | .lpenter _ => r' = { r with err := r'.err, drv := r'.drv, seq := r'.seq }
  | .lpexit => r' = { r with err := r'.err, drv := r'.drv, seq := r'.seq }
  | .sub => r' = { r with err := r'.err, subd := r'.subd, mand := r'.mand, skip := r'.skip, lax := r'.lax,
                          lay := r'.lay, laz := r'.laz }
  | .unsub => r' = { r with err := r'.err, subd := r'.subd }
  | .eval _ => r' = { r with err := r'.err, mand := r'.mand, skip := r'.skip, lax := r'.lax, lay := r'.lay,
                             laz := r'.laz }
  | .poll => r' = { r with err := r'.err, mand := r'.mand, skip := r'.skip, lax := r'.lax, lay := r'.lay,
                           laz := r'.laz, sample := r'.sample, seq := r'.seq }
  | .rdreg _ => r' = r
  | .busWrite _ _ => r' = { r with err := r'.err, seq := r'.seq }
  | .busRead _ _ => r' = { r with err := r'.err, seq := r'.seq }

/-- Whether `i` is one of the nine host commands (spec/30_encoding.md rule R75). -/
def isCommand (i : Instr) : Bool :=
  match i with
  | .busWrite _ _ => false
  | .busRead _ _ => false
  | _ => true

/-- The must-be-zero bits of a command word with opcode `opc`: `RSV` and the bits of `PAY` outside the operand
field of the format (spec/30_encoding.md rules R71, R77). -/
def mustBeZeroBits (opc : BitVec 8) : BitVec 64 :=
  if opc = 0x01#8 then 0x00FFFFFFFFFFFF80#64
  else if opc = 0x03#8 then 0x00FFFFFFFFFFFF00#64
  else if opc = 0x07#8 then 0x00FF000000000000#64
  else if opc = 0x09#8 then 0x00FFFFFFFFFFFFF0#64
  else 0x00FFFFFFFFFFFFFF#64

end Sys2Proof.Machine
end

