-- ==== Sys2Proof/WellFormed.lean ====
section
/-! DEFINITION. Well-formed instructions: the operands are inside their legal sets (spec/30_encoding.md rule R77,
spec/43_host_access.md rule R181). An instruction that is not well-formed still runs: it is refused by the core
with `IllegalOperand`. -/

namespace Sys2Proof

/-- The operands of `i` are legal under the parameters `P`: the wake-frequency selector of LPENTER is in
`WF_LEGAL`, the register number of RDREG names a register. -/
def Instr.wellFormed (P : Params) (i : Instr) : Bool :=
  match i with
  | .init _ => true
  | .rdacc => true
  | .lpenter wf => P.wfLegal.contains wf
  | .lpexit => true
  | .sub => true
  | .unsub => true
  | .eval _ => true
  | .poll => true
  | .rdreg rn => decide (rn.toNat ≤ 10)
  | .busWrite _ _ => true
  | .busRead _ _ => true

end Sys2Proof
end

