-- ==== Sys2Proof/Certificates/Slice0/Obligations.lean ====
section
/-! DEFINITION. The statements for the provers, each a claim about the machine that a rule of the spec makes or
that rests on several of them. `Config.params` are this hardware's parameters; a statement about a free answer of
an oracle holds for every answer. -/

open Sys2Proof Sys2Proof.Machine

/-! ## Encodings -/

/-- Decoding the encoding of any instruction gives the instruction back (R71 to R73, R75, R80, R81, R83). -/
def Obligations.DecodeEncodeRoundTrip : Prop :=
  ∀ i : Instr, decodeEncoding (encode i) = .ok i

/-- What decodes has one encoding: no bit of a word or byte list is ignored (R71, R75, R77, R80, R81). -/
def Obligations.EncodeDecodeRoundTrip : Prop :=
  ∀ (e : Encoding) (i : Instr), decodeEncoding e = .ok i → encode i = e

/-- The worked encodings and responses of R85. -/
def Obligations.WorkedEncodings : Prop :=
  (decode 0x0100000000000068#64 = .ok (.init 0x68#7) ∧ encode (.init 0x68#7) = .command 0x0100000000000068#64) ∧
  (decode 0x0200000000000000#64 = .ok .rdacc ∧ encode .rdacc = .command 0x0200000000000000#64) ∧
  (decode 0x0300000000000001#64 = .ok (.lpenter 1#8) ∧ encode (.lpenter 1#8) = .command 0x0300000000000001#64) ∧
  (decode 0x0400000000000000#64 = .ok .lpexit ∧ encode .lpexit = .command 0x0400000000000000#64) ∧
  (decode 0x0500000000000000#64 = .ok .sub ∧ encode .sub = .command 0x0500000000000000#64) ∧
  (decode 0x0600000000000000#64 = .ok .unsub ∧ encode .unsub = .command 0x0600000000000000#64) ∧
  (decode 0x0700000000004000#64 = .ok (.eval ⟨0#8, 0#8, 0#8, 0#8, 0x40#8, 0#8⟩) ∧
    encode (.eval ⟨0#8, 0#8, 0#8, 0#8, 0x40#8, 0#8⟩) = .command 0x0700000000004000#64) ∧
  (decode 0x0800000000000000#64 = .ok .poll ∧ encode .poll = .command 0x0800000000000000#64) ∧
  (decode 0x0900000000000004#64 = .ok (.rdreg 4#4) ∧ encode (.rdreg 4#4) = .command 0x0900000000000004#64) ∧
  responseWord .ok .none 0#48 = 0x0000000000000000#64 ∧
  responseWord .busError .none 0#48 = 0x1000000000000000#64 ∧
  responseWord .identityMismatch .none 0#48 = 0x2000000000000000#64 ∧
  responseWord .ok .send 0#48 = 0x0300000000000000#64 ∧
  responseWord .channelError .send 0#48 = 0x3300000000000000#64 ∧
  responseWord .ok .skip 0#48 = 0x0200000000000000#64 ∧
  responseWord .ok .inert 0#48 = 0x0100000000000000#64 ∧
  responseWord .ok .none 0x000000004000#48 = 0x0000000000004000#64 ∧
  responseWord .ok .send 0x000000004000#48 = 0x0300000000004000#64

/-- A command word with a reserved opcode is answered `IllegalCommand` whatever its other bits, and only ERR
changes (R76). -/
def Obligations.ReservedOpcodeRefused : Prop :=
  ∀ (s : State) (w : BitVec 64) (rest : List Input), s.inputs = .present (.command w) :: rest →
    (opcode w = 0x00#8 ∨ 0x0A ≤ (opcode w).toNat) →
    step s = .next { s with
      inputs := rest
      regs := { s.regs with err := 6#4 }
      responses := s.responses ++ [0x6000000000000000#64] }

/-- A command word with a legal opcode and a must-be-zero bit set, and a command with an operand outside its legal
set, is answered `IllegalOperand`; only ERR changes, and for RDREG not even ERR (R77). The clause about the
wake-frequency selector is for every set `WF_LEGAL`, so it speaks of `runLpenter` with any parameters. -/
def Obligations.IllegalOperandRefused : Prop :=
  (∀ (s : State) (w : BitVec 64) (rest : List Input), s.inputs = .present (.command w) :: rest →
    1 ≤ (opcode w).toNat → (opcode w).toNat ≤ 9 → w &&& mustBeZeroBits (opcode w) ≠ 0#64 →
    step s = .next { s with
      inputs := rest
      regs := { s.regs with err := if opcode w = 0x09#8 then s.regs.err else 5#4 }
      responses := s.responses ++ [0x5000000000000000#64] }) ∧
  (∀ (rn : BitVec 4) (s : State), 11 ≤ rn.toNat →
    exec (.rdreg rn) s = .next { s with responses := s.responses ++ [0x5000000000000000#64] }) ∧
  (∀ (P : Params) (wf : Byte) (s : State), wf ∉ P.wfLegal →
    runLpenter P wf s = { s with
      regs := { s.regs with err := 5#4 }
      responses := s.responses ++ [0x5000000000000000#64] }) ∧
  (∀ (wf : Byte) (s : State), exec (.lpenter wf) s = .next (runLpenter Config.params wf s))

/-! ## The driver -/

/-- RDACC, LPENTER, LPEXIT and POLL are refused with `NotReady` while the driver is `UNINIT`; the other commands
have no such precondition (R102). -/
def Obligations.NotReadyRefused : Prop :=
  (∀ (s : State) (i : Instr), s.regs.drv = 0#2 →
    (i = .rdacc ∨ i = .lpexit ∨ i = .poll ∨ ∃ wf ∈ Config.params.wfLegal, i = .lpenter wf) →
    exec i s = .next { s with
      regs := { s.regs with err := 4#4 }
      responses := s.responses ++ [0x4000000000000000#64] }) ∧
  (∀ (s : State) (i : Instr),
    ((∃ a, i = .init a) ∨ i = .sub ∨ i = .unsub ∨ (∃ r, i = .eval r) ∨ ∃ rn, i = .rdreg rn) →
    ∃ t w, exec i s = .next t ∧ t.responses = s.responses ++ [w] ∧ responseStatus w ≠ 4#4)

/-- INIT in every state of the driver, when all six transactions answer `ok`: with the expected identity byte the
driver is `ACTIVE` (R104), with any other byte it stays `UNINIT` and the five writes are not undone (R106). -/
def Obligations.InitSemantics : Prop :=
  ∀ (addr : BitVec 7) (s : State) (ds : List RawSample) (d : RawSample),
    answersTo (stepList Config.params (.init addr)) (s.setDevaddr addr) = ds.map .ok ++ [.ok d] →
    (d.b0 = Config.params.idExpected → exec (.init addr) s = .next { s with
      regs := { s.regs with devaddr := addr, drv := 1#2, seq := 6#4, err := 0#4 }
      busIn := s.busIn.drop 6
      events := s.events ++ initEvents Config.params addr
      responses := s.responses ++ [0x0000000000000000#64] }) ∧
    (d.b0 ≠ Config.params.idExpected → exec (.init addr) s = .next { s with
      regs := { s.regs with devaddr := addr, drv := 0#2, seq := 6#4, err := 2#4 }
      busIn := s.busIn.drop 6
      events := s.events ++ (initEvents Config.params addr).take 5
        ++ [.bus addr (.read Config.params.regIdentity .one) (.ok [d.b0])]
      responses := s.responses ++ [0x2000000000000000#64] })

/-- INIT whose transaction of step `k`, the number of answers before the failing one, is the first to fail
(R105). -/
def Obligations.InitBusFailure : Prop :=
  ∀ (addr : BitVec 7) (s : State) (ds : List RawSample), ds.length ≤ 5 →
    answersTo ((stepList Config.params (.init addr)).take (ds.length + 1)) (s.setDevaddr addr)
      = ds.map .ok ++ [.fail] →
    exec (.init addr) s = .next { s with
      regs := { s.regs with devaddr := addr, drv := 0#2, seq := BitVec.ofNat 4 ds.length, err := 1#4 }
      busIn := s.busIn.drop (ds.length + 1)
      events := s.events
        ++ eventsOf addr ((stepList Config.params (.init addr)).take (ds.length + 1)) (ds.map .ok ++ [.fail])
      responses := s.responses ++ [0x1000000000000000#64] }

/-- RDACC: refused while `UNINIT`; else six bytes are read, kept in SAMPLE and answered (R107). -/
def Obligations.RdaccReads : Prop :=
  (∀ s : State, s.regs.drv = 0#2 → exec .rdacc s = .next { s with
      regs := { s.regs with err := 4#4 }
      responses := s.responses ++ [0x4000000000000000#64] }) ∧
  (∀ (s : State) (r : RawSample), s.regs.drv ≠ 0#2 →
    busAnswer (.read Config.params.regAccelBase .six) s = .ok r →
    exec .rdacc s = .next { s with
      regs := { s.regs with sample := r.pack, seq := 1#4, err := 0#4 }
      busIn := s.busIn.tail
      events := s.events ++ [.bus s.regs.devaddr (.read Config.params.regAccelBase .six) (.ok r.bytes)]
      responses := s.responses ++ [r.pack.setWidth 64] })

/-- RDACC whose transaction fails leaves SAMPLE and DRV, and shows step 0 in SEQ (R108). -/
def Obligations.RdaccBusFailure : Prop :=
  ∀ s : State, s.regs.drv ≠ 0#2 → busAnswer (.read Config.params.regAccelBase .six) s = .fail →
    exec .rdacc s = .next { s with
      regs := { s.regs with seq := 0#4, err := 1#4 }
      busIn := s.busIn.tail
      events := s.events ++ [.bus s.regs.devaddr (.read Config.params.regAccelBase .six) .fail]
      responses := s.responses ++ [0x1000000000000000#64] }

/-- LPENTER: refused while `UNINIT`; else the writes of `LP_ENTER_SEQ(wf)` go out in order and the driver is
`CYCLED_LP` (R111). -/
def Obligations.LpenterSucceeds : Prop :=
  (∀ (wf : Byte) (s : State), wf ∈ Config.params.wfLegal → s.regs.drv = 0#2 →
    exec (.lpenter wf) s = .next { s with
      regs := { s.regs with err := 4#4 }
      responses := s.responses ++ [0x4000000000000000#64] }) ∧
  (∀ (wf : Byte) (s : State) (ds : List RawSample), wf ∈ Config.params.wfLegal → s.regs.drv ≠ 0#2 →
    answersTo (stepList Config.params (.lpenter wf)) s = ds.map .ok →
    exec (.lpenter wf) s = .next { s with
      regs := { s.regs with drv := 2#2, seq := BitVec.ofNat 4 (Config.params.lpEnterSeq wf).length, err := 0#4 }
      busIn := s.busIn.drop (Config.params.lpEnterSeq wf).length
      events := s.events
        ++ (Config.params.lpEnterSeq wf).map (fun p => .bus s.regs.devaddr (.write p.1 p.2) (.ok []))
      responses := s.responses ++ [0x0000000000000000#64] })

/-- LPEXIT: refused while `UNINIT`; else the writes of `LP_EXIT_SEQ` go out in order and the driver is `ACTIVE`
(R112). -/
def Obligations.LpexitSucceeds : Prop :=
  (∀ s : State, s.regs.drv = 0#2 → exec .lpexit s = .next { s with
      regs := { s.regs with err := 4#4 }
      responses := s.responses ++ [0x4000000000000000#64] }) ∧
  (∀ (s : State) (ds : List RawSample), s.regs.drv ≠ 0#2 →
    answersTo (stepList Config.params .lpexit) s = ds.map .ok →
    exec .lpexit s = .next { s with
      regs := { s.regs with drv := 1#2, seq := BitVec.ofNat 4 Config.params.lpExitSeq.length, err := 0#4 }
      busIn := s.busIn.drop Config.params.lpExitSeq.length
      events := s.events ++ Config.params.lpExitSeq.map (fun p => .bus s.regs.devaddr (.write p.1 p.2) (.ok []))
      responses := s.responses ++ [0x0000000000000000#64] })

/-- LPENTER and LPEXIT whose transaction of step `k` is the first to fail: the later steps are not issued, SEQ is
`k`, DRV keeps its value (R113). -/
def Obligations.PowerTransitionBusFailure : Prop :=
  ∀ (i : Instr) (s : State) (ds : List RawSample),
    (i = .lpexit ∨ ∃ wf ∈ Config.params.wfLegal, i = .lpenter wf) → s.regs.drv ≠ 0#2 →
    ds.length < (stepList Config.params i).length →
    answersTo ((stepList Config.params i).take (ds.length + 1)) s = ds.map .ok ++ [.fail] →
    exec i s = .next { s with
      regs := { s.regs with seq := BitVec.ofNat 4 ds.length, err := 1#4 }
      busIn := s.busIn.drop (ds.length + 1)
      events := s.events
        ++ eventsOf s.regs.devaddr ((stepList Config.params i).take (ds.length + 1)) (ds.map .ok ++ [.fail])
      responses := s.responses ++ [0x1000000000000000#64] }

/-- The power-state machine of DRV, for every command and every answer of the oracles (R114). -/
def Obligations.DrvTransitions : Prop :=
  ∀ (i : Instr) (s t : State), isCommand i = true → s.regs.drv.toNat ≤ 2 → exec i s = .next t →
    ∃ w, t.responses = s.responses ++ [w] ∧
      t.regs.drv = (match i with
        | .init _ => if responseStatus w = 0#4 then 1#2 else 0#2
        | .lpenter _ => if responseStatus w = 0#4 then 2#2 else s.regs.drv
        | .lpexit => if responseStatus w = 0#4 then 1#2 else s.regs.drv
        | _ => s.regs.drv) ∧
      (s.regs.drv = 0#2 → (i = .rdacc ∨ i = .lpexit ∨ i = .poll ∨ ∃ wf ∈ Config.params.wfLegal, i = .lpenter wf) →
        responseStatus w = 4#4)

/-- The driver commands neither read nor write the throttle registers: with any other values in them the command
does the same and leaves those values; SUB, UNSUB, EVAL and RDREG issue no bus transaction, so POLL is the only
command that does both (R118). -/
def Obligations.DriverAndThrottleAreSeparate : Prop :=
  ∀ (i : Instr) (s t : State), exec i s = .next t →
    (((∃ a, i = .init a) ∨ i = .rdacc ∨ (∃ wf, i = .lpenter wf) ∨ i = .lpexit) →
      ∀ (subd : BitVec 1) (mand : BitVec 3) (skip : BitVec 6) (lax lay laz : BitVec 16),
        exec i { s with regs := { s.regs with subd := subd, mand := mand, skip := skip, lax := lax, lay := lay,
                                              laz := laz } }
          = .next { t with regs := { t.regs with subd := subd, mand := mand, skip := skip, lax := lax, lay := lay,
                                                 laz := laz } }) ∧
    ((i = .sub ∨ i = .unsub ∨ (∃ r, i = .eval r) ∨ ∃ rn, i = .rdreg rn) →
      t.busIn = s.busIn ∧ ∃ es, t.events = s.events ++ es ∧ ∀ e ∈ es, isBusEvent e = false)

/-- A command's bus transactions are those of its step list, in order, all at the address in DEVADDR, up to the
first that fails and none after it; one that has a step list and issues none of it was refused (R101, R115, R195). -/
def Obligations.BusTrafficFollowsStepList : Prop :=
  ∀ (i : Instr) (s : State), ∃ t n answers, exec i s = .next t ∧
    n ≤ (stepList Config.params i).length ∧ answers.length = n ∧
    (t.events.drop s.events.length).filter isBusEvent
      = eventsOf t.regs.devaddr ((stepList Config.params i).take n) answers ∧
    (∀ k, k + 1 < n → answers[k]? ≠ some .fail) ∧
    (0 < n → n < (stepList Config.params i).length → answers.getLast? = some .fail) ∧
    (n = 0 → stepList Config.params i ≠ [] → ∃ w, t.responses = s.responses ++ [w] ∧
      4 ≤ (responseStatus w).toNat ∧ (responseStatus w).toNat ≤ 6)

/-- A driver command (INIT, RDACC, LPENTER, LPEXIT) is its micro-operations run one by one: when one fails, the
command leaves exactly the state the micro-operations up to that one leave; when all succeed, it goes on from the
state they leave (R100, R101, R107, R115, R45, R46). That a micro-operation can be run by itself is the model's
choice (log entry 4). -/
def Obligations.DriverCommandsAreTheirMicroOps : Prop :=
  ∀ (i : Instr) (s s0 : State),
    ((∃ a, i = .init a ∧ s0 = { s with regs := { s.regs with devaddr := a, drv := 0#2, seq := 0#4 } }) ∨
      (s.regs.drv ≠ 0#2 ∧ (i = .rdacc ∨ i = .lpexit ∨ ∃ wf ∈ Config.params.wfLegal, i = .lpenter wf) ∧
        s0 = { s with regs := { s.regs with seq := 0#4 } })) →
    (∀ ds : List RawSample, ds.length < (stepList Config.params i).length →
      answersTo ((stepList Config.params i).take (ds.length + 1)) s0 = ds.map .ok ++ [.fail] →
      ∃ t, execAll (((stepList Config.params i).take (ds.length + 1)).map microInstr) s0 = .next t ∧
        exec i s = .next t) ∧
    (∀ (ds : List RawSample) (d : RawSample), answersTo (stepList Config.params i) s0 = ds.map .ok ++ [.ok d] →
      ∃ u, execAll ((stepList Config.params i).map microInstr) s0 = .next u ∧
        exec i s = .next (match i with
          | .init _ =>
            if d.b0 = Config.params.idExpected then
              { u with regs := { u.regs with drv := 1#2, err := 0#4 }, responses := u.responses ++ [0#64] }
            else { u with regs := { u.regs with err := 2#4 }, responses := u.responses ++ [0x2000000000000000#64] }
          | .rdacc =>
            { u with
              regs := { u.regs with sample := d.pack, err := 0#4 }
              responses := u.responses ++ [d.pack.setWidth 64] }
          | .lpenter _ =>
            { u with regs := { u.regs with drv := 2#2, err := 0#4 }, responses := u.responses ++ [0#64] }
          | _ => { u with regs := { u.regs with drv := 1#2, err := 0#4 }, responses := u.responses ++ [0#64] }))

/-- BUS.WRITE on its own: one transaction `[reg, val]` at the address in DEVADDR; SEQ steps on `ok`, and `fail`
raises `BusError` with SEQ unchanged (R45, R190). That it runs as an instruction of its own, without a response on
`ok` and with one on `fail`, is the model's choice (log entry 4). -/
def Obligations.BusWriteTransaction : Prop :=
  ∀ (reg val : Byte) (s : State),
    (∀ d, busAnswer (.write reg val) s = .ok d → exec (.busWrite reg val) s = .next { s with
      regs := { s.regs with seq := s.regs.seq + 1#4 }
      busIn := s.busIn.tail
      events := s.events ++ [.bus s.regs.devaddr (.write reg val) (.ok [])] }) ∧
    (busAnswer (.write reg val) s = .fail → exec (.busWrite reg val) s = .next { s with
      regs := { s.regs with err := 1#4 }
      busIn := s.busIn.tail
      events := s.events ++ [.bus s.regs.devaddr (.write reg val) .fail]
      responses := s.responses ++ [0x1000000000000000#64] })

/-- BUS.READ on its own: one transaction `[reg]` at the address in DEVADDR that delivers exactly the bytes asked
for, in the order received; SEQ steps on `ok`, and `fail` raises `BusError` with SEQ unchanged (R46, R190). That it
runs as an instruction of its own, without a response on `ok` and with one on `fail`, is the model's choice (log
entry 4). -/
def Obligations.BusReadTransaction : Prop :=
  ∀ (reg : Byte) (len : ReadLen) (s : State),
    (∀ d, busAnswer (.read reg len) s = .ok d → ∃ bytes,
      bytes = (match len with
        | .one => [d.b0]
        | .six => [d.b0, d.b1, d.b2, d.b3, d.b4, d.b5]) ∧
      exec (.busRead reg len) s = .next { s with
        regs := { s.regs with seq := s.regs.seq + 1#4 }
        busIn := s.busIn.tail
        events := s.events ++ [.bus s.regs.devaddr (.read reg len) (.ok bytes)] }) ∧
    (busAnswer (.read reg len) s = .fail → exec (.busRead reg len) s = .next { s with
      regs := { s.regs with err := 1#4 }
      busIn := s.busIn.tail
      events := s.events ++ [.bus s.regs.devaddr (.read reg len) .fail]
      responses := s.responses ++ [0x1000000000000000#64] })

/-! ## The throttle -/

/-- SUB arms the throttle from scratch in every state, and the first evaluation after it sends, whatever the
sample and whatever was accepted before (R151). -/
def Obligations.SubRearms : Prop :=
  ∀ s : State, ∃ t,
    t = { s with
      regs := { s.regs with subd := 1#1, skip := 0#6, mand := 5#3, lax := 0#16, lay := 0#16, laz := 0#16,
                            err := 0#4 }
      responses := s.responses ++ [0x0000000000000000#64] } ∧
    exec .sub s = .next t ∧
    ∀ r : RawSample, large Config.params (decodeSample r) (lastAccepted t.regs) = false ∧
      exec (.eval r) t = .next { t with
        regs := { t.regs with mand := 4#3, lax := r.b0 ++ r.b1, lay := r.b2 ++ r.b3, laz := r.b4 ++ r.b5,
                              err := if chanAnswer r s = .ok then 0#4 else 3#4 }
        chanIn := s.chanIn.tail
        events := s.events ++ [.notify r (chanAnswer r s)]
        responses := t.responses ++
          [if chanAnswer r s = .ok then 0x0300000000000000#64 else 0x3300000000000000#64] }

/-- UNSUB clears SUBD and keeps the counters. In every state with SUBD clear, however long ago the UNSUB was, the
counters influence nothing until the next SUB: every EVAL is inert, every instruction but SUB and RDREG does the
same whatever they hold, leaves them and leaves SUBD clear, and SUB overwrites them all (R152). -/
def Obligations.UnsubDisarms : Prop :=
  (∀ s : State, exec .unsub s = .next { s with
      regs := { s.regs with subd := 0#1, err := 0#4 }
      responses := s.responses ++ [0x0000000000000000#64] }) ∧
  (∀ s : State, s.regs.subd = 0#1 →
    (∀ r : RawSample, exec (.eval r) s = .next { s with
      regs := { s.regs with err := 0#4 }
      responses := s.responses ++ [0x0100000000000000#64] }) ∧
    (∀ (mand : BitVec 3) (skip : BitVec 6) (lax lay laz : BitVec 16) (i : Instr) (u : State),
      exec i s = .next u →
      (i ≠ .sub → u.regs.subd = 0#1) ∧
      (i ≠ .sub → (∀ rn, i ≠ .rdreg rn) →
        exec i { s with regs := { s.regs with mand := mand, skip := skip, lax := lax, lay := lay, laz := laz } }
          = .next { u with regs := { u.regs with mand := mand, skip := skip, lax := lax, lay := lay,
                                                 laz := laz } }) ∧
      (i = .sub →
        exec i { s with regs := { s.regs with mand := mand, skip := skip, lax := lax, lay := lay, laz := laz } }
          = .next u)))

/-- EVAL, complete: inert, skip, or send, on exact integers (R154 with R155, R157 to R161). -/
def Obligations.EvalSemantics : Prop :=
  ∀ (r : RawSample) (s : State),
    (s.regs.subd = 0#1 → exec (.eval r) s = .next { s with
      regs := { s.regs with err := 0#4 }
      responses := s.responses ++ [0x0100000000000000#64] }) ∧
    (s.regs.subd = 1#1 →
      s.regs.mand = 0#3 → mag2 (decodeSample r) (lastAccepted s.regs) ≤ 628023312898483455 → s.regs.skip.toNat < 50 →
      exec (.eval r) s = .next { s with
        regs := { s.regs with skip := s.regs.skip + 1#6, err := 0#4 }
        responses := s.responses ++ [0x0200000000000000#64] }) ∧
    (s.regs.subd = 1#1 →
      (0 < s.regs.mand.toNat ∨ 628023312898483455 < mag2 (decodeSample r) (lastAccepted s.regs) ∨
        50 ≤ s.regs.skip.toNat) →
      exec (.eval r) s = .next { s with
        regs := { s.regs with
          mand := BitVec.ofNat 3 ((if 628023312898483455 < mag2 (decodeSample r) (lastAccepted s.regs)
            then max s.regs.mand.toNat 4 else s.regs.mand.toNat) - 1)
          skip := 0#6
          lax := r.b0 ++ r.b1
          lay := r.b2 ++ r.b3
          laz := r.b4 ++ r.b5
          err := if chanAnswer r s = .ok then 0#4 else 3#4 }
        chanIn := s.chanIn.tail
        events := s.events ++ [.notify r (chanAnswer r s)]
        responses := s.responses ++
          [if chanAnswer r s = .ok then 0x0300000000000000#64 else 0x3300000000000000#64] })

/-- POLL with a ready driver and a successful read is the read of RDACC followed by EVAL of the bytes just read,
answering those bytes besides the decision; while `UNINIT` it is refused (R165). -/
def Obligations.PollIsReadThenEval : Prop :=
  (∀ s : State, s.regs.drv = 0#2 → exec .poll s = .next { s with
      regs := { s.regs with err := 4#4 }
      responses := s.responses ++ [0x4000000000000000#64] }) ∧
  (∀ (s : State) (r : RawSample), s.regs.drv ≠ 0#2 →
    busAnswer (.read Config.params.regAccelBase .six) s = .ok r →
    ∃ t w, exec (.eval r) { s with
        regs := { s.regs with sample := r.pack, seq := 1#4 }
        busIn := s.busIn.tail
        events := s.events ++ [.bus s.regs.devaddr (.read Config.params.regAccelBase .six) (.ok r.bytes)] }
        = .next t ∧
      t.responses = s.responses ++ [w] ∧
      exec .poll s = .next { t with responses := s.responses ++ [w ||| r.pack.setWidth 64] })

/-- POLL whose read fails evaluates nothing: of the registers only SEQ and ERR change (R166). -/
def Obligations.PollBusFailure : Prop :=
  ∀ s : State, s.regs.drv ≠ 0#2 → busAnswer (.read Config.params.regAccelBase .six) s = .fail →
    exec .poll s = .next { s with
      regs := { s.regs with seq := 0#4, err := 1#4 }
      busIn := s.busIn.tail
      events := s.events ++ [.bus s.regs.devaddr (.read Config.params.regAccelBase .six) .fail]
      responses := s.responses ++ [0x1000000000000000#64] }

/-- POLL while inert reads the sensor and updates SAMPLE, and leaves the throttle and the channel alone (R167). -/
def Obligations.PollInert : Prop :=
  ∀ (s : State) (r : RawSample), s.regs.drv ≠ 0#2 → s.regs.subd = 0#1 →
    busAnswer (.read Config.params.regAccelBase .six) s = .ok r →
    exec .poll s = .next { s with
      regs := { s.regs with sample := r.pack, seq := 1#4, err := 0#4 }
      busIn := s.busIn.tail
      events := s.events ++ [.bus s.regs.devaddr (.read Config.params.regAccelBase .six) (.ok r.bytes)]
      responses := s.responses ++ [0x0100000000000000#64 ||| r.pack.setWidth 64] }

/-- The bytes of every notification are the bytes of the sample the same command evaluated, last_accepted is
their decoding, and in a POLL they are the bytes that POLL read (R52, R86, R168; 95 section 6 property 6). -/
def Obligations.NotificationIsSampleEvaluated : Prop :=
  ∀ (i : Instr) (s t : State) (b : RawSample) (a : ChanAnswer), exec i s = .next t →
    Event.notify b a ∈ t.events.drop s.events.length →
    lastAccepted t.regs = decodeSample b ∧
    (i = .eval b ∨
      (i = .poll ∧ t.regs.sample = b.pack ∧
        t.events = s.events ++ [.bus s.regs.devaddr (.read Config.params.regAccelBase .six) (.ok b.bytes),
          .notify b a]))

/-- From SUB, with every sample below threshold against last_accepted, evaluations 1 to 5 send, then 50 skip and
one sends, with period 51; MAND and SKIP after each prefix of the sequence are as the rule tabulates them (R162). -/
def Obligations.BelowThresholdCadence : Prop :=
  ∀ (s : State) (vs : List RawSample),
    (∀ k (hk : k < vs.length) (t : State), execAll (.sub :: (vs.take k).map .eval) s = .next t →
      mag2 (decodeSample vs[k]) (lastAccepted t.regs) ≤ 628023312898483455) →
    ∃ t, execAll (.sub :: vs.map .eval) s = .next t ∧
      t.responses.map responseDecision = s.responses.map responseDecision ++ 0#4 ::
        (List.range vs.length).map (fun k => if k < 5 ∨ (k - 4) % 51 = 0 then 3#4 else 2#4) ∧
      t.regs.mand.toNat = 5 - vs.length ∧
      t.regs.skip.toNat = (if vs.length ≤ 5 then 0 else (vs.length - 5) % 51)

/-- Motion burst: from MAND = 0 a sample with large motion sends and ends with MAND = 3; the next three, below
threshold against the last sent, send too, and the one after skips (R163). -/
def Obligations.MotionBurst : Prop :=
  ∀ (s : State) (v v1 v2 v3 v4 : RawSample), s.regs.subd = 1#1 → s.regs.mand = 0#3 →
    628023312898483455 < mag2 (decodeSample v) (lastAccepted s.regs) →
    mag2 (decodeSample v1) (decodeSample v) ≤ 628023312898483455 →
    mag2 (decodeSample v2) (decodeSample v1) ≤ 628023312898483455 →
    mag2 (decodeSample v3) (decodeSample v2) ≤ 628023312898483455 →
    mag2 (decodeSample v4) (decodeSample v3) ≤ 628023312898483455 →
    ∃ t1 t, exec (.eval v) s = .next t1 ∧ t1.regs.mand = 3#3 ∧
      execAll [.eval v1, .eval v2, .eval v3, .eval v4] t1 = .next t ∧
      t.responses.map responseDecision = s.responses.map responseDecision ++ [3#4, 3#4, 3#4, 3#4, 2#4] ∧
      t.regs.mand = 0#3 ∧ t.regs.skip = 1#6

/-- Twice the same sample, below threshold, with no send mandatory: both are skipped and SKIP goes up by one each
time while it is at most 48; from 49 the second is sent, from 50 the first (R164). -/
def Obligations.SkippingRepeats : Prop :=
  ∀ (s : State) (v : RawSample), s.regs.subd = 1#1 → s.regs.mand = 0#3 →
    mag2 (decodeSample v) (lastAccepted s.regs) ≤ 628023312898483455 →
    ∃ t1 t2 d1 d2, exec (.eval v) s = .next t1 ∧ exec (.eval v) t1 = .next t2 ∧
      t2.responses.map responseDecision = s.responses.map responseDecision ++ [d1, d2] ∧
      (s.regs.skip.toNat ≤ 48 → d1 = 2#4 ∧ d2 = 2#4 ∧ t1.regs.skip.toNat = s.regs.skip.toNat + 1 ∧
        t2.regs.skip.toNat = s.regs.skip.toNat + 2) ∧
      (s.regs.skip.toNat = 49 → d1 = 2#4 ∧ d2 = 3#4) ∧
      (s.regs.skip.toNat = 50 → d1 = 3#4)

/-- The keep-alive floor. In any run of steps from any state, whatever the inputs (EVAL and POLL, failed polls,
inert evaluations, other commands, refused words, resets), among the responses put out one after another without a
SEND there are at most 50 SKIP; and of any 51 EVAL in a row while subscribed one sends (95 section 6 property 3;
R158, R159). -/
def Obligations.AtMostFiftySkipsInARow : Prop :=
  (∀ (n : Nat) (s t : State), runSteps n s = .next t →
    ∀ ds : List (BitVec 4), ds <:+: (t.responses.drop s.responses.length).map responseDecision → 3#4 ∉ ds →
      ds.count 2#4 ≤ 50) ∧
  (∀ (s : State) (vs : List RawSample), s.regs.subd = 1#1 → vs.length = 51 →
    ∃ t, execAll (vs.map .eval) s = .next t ∧
      ∃ w ∈ t.responses.drop s.responses.length, responseDecision w = 3#4)

/-! ## Host access -/

/-- RDREG answers each register's own bits, zero-extended, and `IllegalOperand` for 11 to 15; it writes no register
(R180). -/
def Obligations.RdregReads : Prop :=
  ∀ s : State, ∀ p ∈ [
      (0#4, s.regs.err.setWidth 64), (1#4, s.regs.drv.setWidth 64), (2#4, s.regs.devaddr.setWidth 64),
      (3#4, s.regs.subd.setWidth 64), (4#4, s.regs.mand.setWidth 64), (5#4, s.regs.skip.setWidth 64),
      (6#4, s.regs.lax.setWidth 64), (7#4, s.regs.lay.setWidth 64), (8#4, s.regs.laz.setWidth 64),
      (9#4, s.regs.sample.setWidth 64), (10#4, s.regs.seq.setWidth 64),
      (11#4, 0x5000000000000000#64), (12#4, 0x5000000000000000#64), (13#4, 0x5000000000000000#64),
      (14#4, 0x5000000000000000#64), (15#4, 0x5000000000000000#64)],
    exec (.rdreg p.1) s = .next { s with responses := s.responses ++ [p.2] }

/-- The illegal forms of RDREG change no register, ERR included (R181). -/
def Obligations.RdregIllegalForms : Prop :=
  ∀ (s : State) (w : BitVec 64) (rest : List Input), s.inputs = .present (.command w) :: rest →
    opcode w = 0x09#8 →
    (11 ≤ ((payload w).extractLsb' 0 4).toNat ∨ (payload w).extractLsb' 4 44 ≠ 0#44 ∨ reserved w ≠ 0#8) →
    step s = .next { s with inputs := rest, responses := s.responses ++ [0x5000000000000000#64] }

/-! ## The machine -/

/-- A step with an encoding at the input that decodes to `i` is `exec i` with that input taken; with no input the
core is idle and the step changes nothing, which is the model's reading (log entry 7). -/
def Obligations.StepRunsTheDecodedInstruction : Prop :=
  (∀ (s : State) (e : Encoding) (rest : List Input) (i : Instr), s.inputs = .present e :: rest →
    decodeEncoding e = .ok i → step s = exec i { s with inputs := rest }) ∧
  (∀ s : State, s.inputs = [] → step s = .next s)

/-- Core reset puts every register at its reset value and touches neither bus nor channel; the machine right
after power-up has the same values (R220, R222). -/
def Obligations.ResetValues : Prop :=
  (∀ (s : State) (rest : List Input), s.inputs = .reset :: rest →
    step s = .next { s with
      inputs := rest
      regs := { err := 0#4, drv := 0#2, devaddr := 0#7, subd := 0#1, mand := 0#3, skip := 0#6, lax := 0#16,
                lay := 0#16, laz := 0#16, sample := 0#48, seq := 0#4 } }) ∧
  State.reset.regs = { err := 0#4, drv := 0#2, devaddr := 0#7, subd := 0#1, mand := 0#3, skip := 0#6,
                       lax := 0#16, lay := 0#16, laz := 0#16, sample := 0#48, seq := 0#4 } ∧
  State.reset.events = [] ∧ State.reset.responses = []

/-- Reset asserted during a command abandons it: the registers take their reset values, there is no response, and
of the events the command would have caused exactly the first `calls` have happened (R221). -/
def Obligations.ResetDuringCommand : Prop :=
  ∀ (s : State) (w : BitVec 64) (calls : Nat) (rest : List Input), s.inputs = .cut w calls :: rest →
    ∃ t done, step s = .next t ∧ serveEncoding (.command w) { s with inputs := rest } = .next done ∧
      t.regs = Regs.reset ∧ t.responses = s.responses ∧ t.inputs = rest ∧
      t.events = done.events.take (s.events.length + calls) ∧
      s.events <+: t.events ∧
      t.busIn = s.busIn.drop (((t.events.drop s.events.length).filter isBusEvent).length)

/-- Every command word, legal or not, is answered by exactly one response word, whose status is one of the seven;
ERR then holds that status, except that RDREG leaves all registers alone (R20, R191, R227; 95 section 6
property 1). -/
def Obligations.OneResponseAndErrHoldsIt : Prop :=
  ∀ (s : State) (w : BitVec 64) (rest : List Input), s.inputs = .present (.command w) :: rest →
    ∃ t r, step s = .next t ∧ t.inputs = rest ∧ t.responses = s.responses ++ [r] ∧
      (responseStatus r).toNat ≤ 6 ∧
      t.regs.err = (if opcode w = 0x09#8 then s.regs.err else responseStatus r) ∧
      (opcode w = 0x09#8 → t.regs = s.regs)

/-- A command refused with `NotReady`, `IllegalOperand` or `IllegalCommand` emits no event, consumes no answer and
changes no register but ERR (R195; 95 section 6 property 4). -/
def Obligations.RefusalsChangeOnlyErr : Prop :=
  ∀ (s t : State) (w : BitVec 64) (rest : List Input) (r : BitVec 64),
    s.inputs = .present (.command w) :: rest → step s = .next t → t.responses = s.responses ++ [r] →
    4 ≤ (responseStatus r).toNat →
    t = { s with inputs := rest, responses := s.responses ++ [r], regs := { s.regs with err := t.regs.err } } ∧
      responseDecision r = 0#4 ∧ responseData r = 0#48

/-- Each command changes at most the registers the register table lists for it, takes no input, and only adds to
the history and the responses (R11). -/
def Obligations.CommandsChangeOnlyListedRegisters : Prop :=
  ∀ (i : Instr) (s t : State), exec i s = .next t →
    changesOnlyListed i s.regs t.regs ∧ t.inputs = s.inputs ∧ s.events <+: t.events ∧ s.responses <+: t.responses

/-- A command makes at most 15 bus transactions and then at most one notification (R56, R227). -/
def Obligations.CallsAreBoundedAndOrdered : Prop :=
  ∀ (s : State) (w : BitVec 64) (rest : List Input), s.inputs = .present (.command w) :: rest →
    ∃ t bs ns, step s = .next t ∧ t.events = s.events ++ bs ++ ns ∧
      (∀ e ∈ bs, isBusEvent e = true) ∧ (∀ e ∈ ns, isBusEvent e = false) ∧ bs.length ≤ 15 ∧ ns.length ≤ 1

/-- No step rewrites the past: a step takes the next input, adds events and at most one response, and uses up one
pending answer per call it adds (R56). -/
def Obligations.HistoryOnlyGrows : Prop :=
  ∀ s t : State, step s = .next t →
    t.inputs = s.inputs.tail ∧
    ∃ es rs, t.events = s.events ++ es ∧ t.responses = s.responses ++ rs ∧ rs.length ≤ 1 ∧
      t.busIn = s.busIn.drop (es.filter isBusEvent).length ∧
      t.chanIn = s.chanIn.drop (es.filter (fun e => !isBusEvent e)).length

/-! ## Invariants -/

/-- `0 <= MAND <= 5` and `0 <= SKIP <= 50` after reset, and after every step from a state in which that holds (R16);
the same with `SKIP > 0` implying `MAND = 0` (95 section 6 property 2). -/
def Obligations.ThrottleBoundsKept : Prop :=
  (State.reset.regs.mand.toNat ≤ 5 ∧ State.reset.regs.skip.toNat ≤ 50) ∧
  (∀ s t : State, s.regs.mand.toNat ≤ 5 → s.regs.skip.toNat ≤ 50 → step s = .next t →
    t.regs.mand.toNat ≤ 5 ∧ t.regs.skip.toNat ≤ 50) ∧
  (∀ s t : State, throttleInv Config.params s.regs → step s = .next t → throttleInv Config.params t.regs)

/-- ERR and DRV hold legal codes after every step from a state in which they do (R20, R21). -/
def Obligations.LegalCodesKept : Prop :=
  ∀ s t : State, codesInv s.regs → step s = .next t → codesInv t.regs

/-- A ready driver was verified, after every step from a state in which that holds: DRV is ACTIVE or CYCLED_LP
only after a complete INIT with the expected identity byte at the address in DEVADDR (R223; 95 section 6
property 5). -/
def Obligations.ReadyDriverWasVerified : Prop :=
  ∀ s t : State, verified Config.params s → step s = .next t → verified Config.params t

/-- Every successful transaction in the history delivered exactly the bytes asked for, after every step from a
state in which that holds (R51). -/
def Obligations.CompleteTransactionsKept : Prop :=
  ∀ s t : State, (∀ e ∈ s.events, eventComplete e = true) → step s = .next t →
    ∀ e ∈ t.events, eventComplete e = true

/-- The invariants hold at reset. -/
def Obligations.InvariantsHoldAtReset : Prop :=
  throttleInv Config.params State.reset.regs ∧ codesInv State.reset.regs ∧ verified Config.params State.reset ∧
    ∀ e ∈ State.reset.events, eventComplete e = true

/-! ## The decoder and the classifier -/

/-- `s16` and `DECODE`, with the range of the decoded physical values (R130, R132). -/
def Obligations.DecodedAxes : Prop :=
  (∀ h l : Byte, s16 h l =
    if h.toNat < 128 then (h.toNat : Int) * 256 + l.toNat else (h.toNat : Int) * 256 + l.toNat - 65536) ∧
  (∀ r : RawSample, decodeSample r = ⟨s16 r.b0 r.b1, s16 r.b2 r.b3, s16 r.b4 r.b5⟩) ∧
  (∀ h l : Byte, -32768 ≤ s16 h l ∧ s16 h l ≤ 32767 ∧
    -Config.params.fsG ≤ physical Config.params (s16 h l) ∧ physical Config.params (s16 h l) < Config.params.fsG)

/-- The bounds of the products, of CROSS, of its squares and of MAG2 on 16-bit axis values; the largest component
is reached (R134, R135). -/
def Obligations.CrossAndMagnitudeBounds : Prop :=
  (∀ u v : Int, -32768 ≤ u → u ≤ 32767 → -32768 ≤ v → v ≤ 32767 → -1073709056 ≤ u * v ∧ u * v ≤ 1073741824) ∧
  (∀ a b : AccelVec,
    (∀ v ∈ [a.x, a.y, a.z, b.x, b.y, b.z], -32768 ≤ v ∧ v ≤ 32767) →
    (∀ c ∈ [(cross a b).x, (cross a b).y, (cross a b).z], -2147450880 ≤ c ∧ c ≤ 2147450880 ∧
      c * c ≤ 4611545282012774400) ∧
    mag2 a b = (cross a b).x * (cross a b).x + (cross a b).y * (cross a b).y + (cross a b).z * (cross a b).z ∧
    0 ≤ mag2 a b ∧ mag2 a b ≤ 13834635846038323200 ∧ mag2 a b ≤ 9 * 2 ^ 60) ∧
  (cross ⟨0, -32768, -32768⟩ ⟨0, 32767, -32768⟩).x = 2147450880

/-- The algebra of MAG2: symmetric, zero on equal vectors, on the sentinel and on multiples, and Lagrange's
identity (R136). -/
def Obligations.MagnitudeAlgebra : Prop :=
  ∀ a b : AccelVec,
    mag2 a b = mag2 b a ∧ mag2 a a = 0 ∧ mag2 a ⟨0, 0, 0⟩ = 0 ∧
    (∀ p q : Int, p ≠ 0 → p * b.x = q * a.x → p * b.y = q * a.y → p * b.z = q * a.z → mag2 a b = 0) ∧
    mag2 a b = (a.x * a.x + a.y * a.y + a.z * a.z) * (b.x * b.x + b.y * b.y + b.z * b.z)
      - (a.x * b.x + a.y * b.y + a.z * b.z) * (a.x * b.x + a.y * b.y + a.z * b.z)

/-- The threshold is the floor of `100 * sin(5 degrees) * 2^60 / FS_G^4`, for this hardware's range and for the
three others the rule gives; the value is no integer, and for an integer magnitude the condition on physical units
is exactly the strict comparison with the floor (R137). -/
def Obligations.ThresholdIsTheFloor : Prop :=
  (Config.params.fsG = 2 ∧ Config.params.threshRaw = 628023312898483455) ∧
  ∀ p ∈ [((2 : Real), (628023312898483455 : Int)), (4, 39251457056155215), (8, 2453216066009700),
      (16, 153326004125606)],
    ⌊100 * Real.sin (5 * (Real.pi / 180)) * 2 ^ 60 / p.1 ^ 4⌋ = p.2 ∧
      (p.2 : Real) ≠ 100 * Real.sin (5 * (Real.pi / 180)) * 2 ^ 60 / p.1 ^ 4 ∧
      ∀ m : Int, 100 * Real.sin (5 * (Real.pi / 180)) < m * p.1 ^ 4 / 2 ^ 60 ↔ p.2 < m

/-- LARGE is a strict comparison, and with this threshold equality never occurs: no sum of three squares is
congruent to 7 modulo 8 (R138). -/
def Obligations.ThresholdIsNeverMet : Prop :=
  ∀ a b : AccelVec,
    (large Config.params a b = true ↔ 628023312898483455 < mag2 a b) ∧ mag2 a b ≠ 628023312898483455

/-- Two vectors of length 1 g are never large motion, whatever the rotation between them; two perpendicular
vectors of raw length 28152 are, of 28151 are not (R139). -/
def Obligations.OneGravityIsNeverLarge : Prop :=
  (∀ a b : AccelVec, a.x * a.x + a.y * a.y + a.z * a.z = 16384 * 16384 →
    b.x * b.x + b.y * b.y + b.z * b.z = 16384 * 16384 →
    mag2 a b ≤ 2 ^ 56 ∧ large Config.params a b = false) ∧
  (mag2 ⟨28152, 0, 0⟩ ⟨0, 28152, 0⟩ = 628111891072290816 ∧ large Config.params ⟨28152, 0, 0⟩ ⟨0, 28152, 0⟩ = true) ∧
  (mag2 ⟨28151, 0, 0⟩ ⟨0, 28151, 0⟩ = 628022650034397601 ∧ large Config.params ⟨28151, 0, 0⟩ ⟨0, 28151, 0⟩ = false)

/-- The datapath at the hardware's widths computes MAG2 exactly, and its unsigned 64-bit comparison decides LARGE
(R140). -/
def Obligations.DatapathIsExact : Prop :=
  ∀ ax ay az bx by' bz : BitVec 16,
    ((mag2Datapath ax ay az bx by' bz).toNat : Int)
        = mag2 ⟨ax.toInt, ay.toInt, az.toInt⟩ ⟨bx.toInt, by'.toInt, bz.toInt⟩ ∧
      (large Config.params ⟨ax.toInt, ay.toInt, az.toInt⟩ ⟨bx.toInt, by'.toInt, bz.toInt⟩ = true ↔
        BitVec.ofNat 64 Config.params.threshRaw < mag2Datapath ax ay az bx by' bz)

/-! ## Parameters, assembler, wire, reference sensor -/

/-- This hardware's parameters are well-formed, and those that R6 fixes have its values (R6, R237). -/
def Obligations.ParametersAreWellFormed : Prop :=
  Config.params.wellFormed = true ∧ Config.sampleLen = 6 ∧ Config.params.fsG = 2 ∧
    Config.params.threshRaw = 628023312898483455 ∧ Config.params.mandSubscribe = 5 ∧
    Config.params.mandMotion = 4 ∧ Config.params.skipCap = 50

/-- The pseudo-instruction EVALXYZ stands for the EVAL whose bytes decode to the three given values, high byte
first (R84). -/
def Obligations.EvalxyzExpands : Prop :=
  (∀ x y z : Int, (∀ v ∈ [x, y, z], -32768 ≤ v ∧ v ≤ 32767) →
    ∃ r : RawSample, assemble (.evalxyz x y z) = encode (.eval r) ∧ decodeSample r = ⟨x, y, z⟩ ∧
      BitVec.ofInt 16 x = r.b0 ++ r.b1 ∧ BitVec.ofInt 16 y = r.b2 ++ r.b3 ∧ BitVec.ofInt 16 z = r.b4 ++ r.b5) ∧
  assemble (.evalxyz 0 0 16384) = .command 0x0700000000004000#64

/-- On the wire a transaction finds the bus busy or begins with START and the address byte, the 7-bit address in
bits [7:1] and the read/write flag in bit 0, sent from the top bit of the address down to the flag; with every byte
acknowledged, BUS.WRITE and BUS.READ are the sequences of R49 and R50, and a read acknowledges all bytes it receives
but the last. All of this is general knowledge in the spec itself (R48 to R50), which the model presumes (log
entry 10). -/
def Obligations.WireFraming : Prop :=
  (∀ (addr : BitVec 7) (rw : BitVec 1), (wireAddress addr rw).toNat = 2 * addr.toNat + rw.toNat ∧
    wireBits (wireAddress addr rw) = [6, 5, 4, 3, 2, 1, 0].map addr.getLsbD ++ [rw.getLsbD 0]) ∧
  (∀ (addr : BitVec 7) (op : MicroOp) (l : WireLine),
    (l.free = false ∧ (wireTransaction addr op l).1 = [.busy]) ∨
      (l.free = true ∧ ∃ rest,
        (wireTransaction addr op l).1 = .start :: .sent (wireAddress addr 0#1) l.ackAddr :: rest)) ∧
  (∀ (addr : BitVec 7) (reg val : Byte) (l : WireLine), l.passes (.write reg val) = true →
    wireTransaction addr (.write reg val) l =
      ([.start, .sent (wireAddress addr 0#1) true, .sent reg true, .sent val true, .stop], .ok l.data)) ∧
  (∀ (addr : BitVec 7) (reg : Byte) (len : ReadLen) (l : WireLine), l.passes (.read reg len) = true →
    wireTransaction addr (.read reg len) l =
      ([.start, .sent (wireAddress addr 0#1) true, .sent reg true]
        ++ (if Config.repeatedStart then [.start] else [.stop, .start])
        ++ [.sent (wireAddress addr 1#1) true]
        ++ wireData (match len with
          | .one => [l.data.b0]
          | .six => [l.data.b0, l.data.b1, l.data.b2, l.data.b3, l.data.b4, l.data.b5])
        ++ [.stop], .ok l.data)) ∧
  (∀ (bs : List Byte) (b : Byte),
    wireData (bs ++ [b]) = bs.map (fun c => .received c true) ++ [.received b false])

/-- On the wire a transaction fails exactly when a START finds the bus not free or a byte sent is not acknowledged;
the byte not acknowledged is the last one sent; and the core can tell none of these causes apart, since each
transaction of the history with an answer of the transport, `fail` included, is what some line shows, and one that
failed is shown by each of the lines that fail. General knowledge in the spec itself (R47, R49, R50), which the
model presumes (log entry 10). -/
def Obligations.WireFailure : Prop :=
  (∀ (addr : BitVec 7) (op : MicroOp) (l : WireLine),
    (wireTransaction addr op l).2 = (if l.passes op then .ok l.data else .fail)) ∧
  (∀ (addr : BitVec 7) (op : MicroOp) (l : WireLine) (b : Byte) (before after : List WireItem),
    (wireTransaction addr op l).1 = before ++ .sent b false :: after →
      after = [.stop] ∧ (wireTransaction addr op l).2 = .fail) ∧
  (∀ (addr : BitVec 7) (reg val : Byte) (l : WireLine), l.passes (.write reg val) = false →
    (wireTransaction addr (.write reg val) l).1 =
      if l.free = false then [.busy]
      else if l.ackAddr = false then [.start, .sent (wireAddress addr 0#1) false, .stop]
      else if l.ackReg = false then [.start, .sent (wireAddress addr 0#1) true, .sent reg false, .stop]
      else [.start, .sent (wireAddress addr 0#1) true, .sent reg true, .sent val false, .stop]) ∧
  (∀ (addr : BitVec 7) (op : MicroOp) (a : BusAnswer), ∃ l w, wireOf (.bus addr op (busResult op a)) l = some w) ∧
  (∀ (addr : BitVec 7) (op : MicroOp) (l : WireLine),
    (wireOf (.bus addr op .fail) l).isSome = true ↔ l.passes op = false)

/-- INIT against the reference sensor: at its own address, with the identity register not among the five written
ones and no transaction made to fail, it succeeds, and the sensor holds the five values, a register written twice
holding the last; at any other address step 0 fails (R62, R104, R105). For every parameter assignment. -/
def Obligations.InitAgainstReferenceSensor : Prop :=
  ∀ (P : Params) (r : RefSensor) (s : State) (addr : BitVec 7), r.failAt = none → Memory.wf r.dev →
    readCell r.dev P.regIdentity.toNat = P.idExpected →
    P.regIdentity ∉ (initWrites P).map Prod.fst →
    ∃ answers r', RefSensor.script P addr (stepList P (.init addr)) r = (answers, r') ∧
      ∃ t, runInit P addr { s with busIn := answers } = t ∧ t.busIn = [] ∧ Memory.wf r'.dev ∧
        (if addr = r.addr then
          t.regs.drv = 1#2 ∧ t.regs.err = 0#4 ∧ t.regs.seq = 6#4 ∧
            readCell r'.dev P.regPwrMode.toNat = P.valPwrActive ∧
            ∀ (before after : List (Byte × Byte)) (reg val : Byte),
              initWrites P = before ++ (reg, val) :: after → reg ∉ after.map Prod.fst →
              readCell r'.dev reg.toNat = val
        else t.regs.drv = 0#2 ∧ t.regs.err = 1#4 ∧ t.regs.seq = 0#4 ∧ r'.dev = r.dev)

/-- POLL against the reference sensor and the reference channel. The array before a run is zero but for the identity
register; a ready, subscribed core with a send due reads the harness's next sample, sends it, and reports whether
the channel is connected; the sensor answers `fail` to the transaction made to fail and at every other bus address.
For every parameter assignment (R62, R161, R165). -/
def Obligations.PollAgainstReferenceEnvironment : Prop :=
  ∀ (P : Params) (addr : BitVec 7) (x : RawSample) (xs : List RawSample) (c : RefChannel) (s : State),
    (Memory.wf (RefSensor.initial P addr (x :: xs) none).dev ∧
      ∀ a, readCell (RefSensor.initial P addr (x :: xs) none).dev a
        = if a = P.regIdentity.toNat then P.idExpected else 0#8) ∧
    (s.regs.drv ≠ 0#2 → s.regs.devaddr = addr → s.regs.subd = 1#1 → 0 < s.regs.mand.toNat →
      ∃ r' t,
        RefSensor.script P addr (stepList P .poll) (RefSensor.initial P addr (x :: xs) none) = ([.ok x], r') ∧
        r'.samples = xs ∧
        runPoll P { s with busIn := [.ok x], chanIn := RefChannel.script [c] } = t ∧
        t.busIn = [] ∧ t.chanIn = [] ∧ t.regs.sample = x.pack ∧ lastAccepted t.regs = decodeSample x ∧
        t.regs.err = (if c.connected then 0#4 else 3#4) ∧
        t.events = s.events ++ [.bus addr (.read P.regAccelBase .six) (.ok x.bytes),
          .notify x (if c.connected then .ok else .fail)] ∧
        t.responses = s.responses ++
          [(if c.connected then 0x0300000000000000#64 else 0x3300000000000000#64) ||| x.pack.setWidth 64]) ∧
    (RefSensor.script P addr (stepList P .poll) (RefSensor.initial P addr (x :: xs) (some 0))).1 = [.fail] ∧
    ∀ other, other ≠ addr →
      (RefSensor.script P other (stepList P .poll) (RefSensor.initial P addr (x :: xs) none)).1 = [.fail]
end

