-- ==== Sys2Proof/Laws/Config.lean ====
section
/-! SUPPORT. The fields of this hardware's parameters, so that no proof unfolds them, and the 16-bit pattern of a
decoded axis. -/

namespace Sys2Proof

@[simp] theorem Config.params_fsG : Config.params.fsG = 2 := rfl
@[simp] theorem Config.params_threshRaw : Config.params.threshRaw = 628023312898483455 := rfl
@[simp] theorem Config.params_mandSubscribe : Config.params.mandSubscribe = 5 := rfl
@[simp] theorem Config.params_mandMotion : Config.params.mandMotion = 4 := rfl
@[simp] theorem Config.params_skipCap : Config.params.skipCap = 50 := rfl
@[simp] theorem Config.params_idExpected : Config.params.idExpected = Config.idExpected := rfl

/-- The low-power write lists have 1 to 15 pairs (R6). -/
theorem Config.params_lpEnterSeq_length (wf : Byte) :
    1 ≤ (Config.params.lpEnterSeq wf).length ∧ (Config.params.lpEnterSeq wf).length ≤ 15 := by
  simp only [Config.params, List.length_cons, List.length_take]
  omega

theorem Config.params_lpExitSeq_length :
    1 ≤ Config.params.lpExitSeq.length ∧ Config.params.lpExitSeq.length ≤ 15 := by
  simp only [Config.params, List.length_cons, List.length_take]
  omega

/-- Writing a decoded axis to a 16-bit register writes its two bytes, high byte first (R13). -/
@[simp] theorem Machine.ofInt_s16 (h l : Byte) : BitVec.ofInt 16 (Machine.s16 h l) = h ++ l :=
  BitVec.ofInt_toInt

end Sys2Proof
end

