-- ==== Sys2Proof/Laws/Decode.lean ====
section
/-! SUPPORT. What the fields of an assembled command word and of a packed sample are, and that every encoding
carries its row's `match` bits under its row's `mask` (spec/opcode_table.json). -/

namespace Sys2Proof

theorem getLsbD_commandWord (o : BitVec 8) (p : BitVec 48) (j : Nat) :
    (commandWord o p).getLsbD j =
      if j < 48 then p.getLsbD j else if j < 56 then false else o.getLsbD (j - 56) := by
  have h : (commandWord o p).getLsbD j = BitVec.getLsbD (w := 8 + 8 + 48) (o ++ 0x00#8 ++ p) j := rfl
  rw [h, BitVec.getLsbD_append, BitVec.getLsbD_append]
  split
  · rfl
  · rename_i h1
    by_cases h2 : j < 56
    · rw [if_pos (by omega), if_pos h2]
      simp
    · rw [if_neg (by omega), if_neg h2, Nat.sub_sub]

@[simp] theorem opcode_commandWord (o : BitVec 8) (p : BitVec 48) : opcode (commandWord o p) = o := by
  apply BitVec.eq_of_getLsbD_eq
  intro i hi
  simp only [opcode, BitVec.getLsbD_extractLsb', getLsbD_commandWord]
  rw [if_neg (by omega), if_neg (by omega)]
  simp [hi]

@[simp] theorem reserved_commandWord (o : BitVec 8) (p : BitVec 48) : reserved (commandWord o p) = 0#8 := by
  apply BitVec.eq_of_getLsbD_eq
  intro i hi
  simp only [reserved, BitVec.getLsbD_extractLsb', getLsbD_commandWord, BitVec.getLsbD_zero]
  rw [if_neg (by omega), if_pos (by omega)]
  simp

@[simp] theorem payload_commandWord (o : BitVec 8) (p : BitVec 48) : payload (commandWord o p) = p := by
  apply BitVec.eq_of_getLsbD_eq
  intro i hi
  simp [payload, getLsbD_commandWord, hi]

/-- The low bits of a zero-extended operand are the operand. -/
theorem extract_low {n : Nat} (v : BitVec n) (h : n ≤ 48) : (v.setWidth 48).extractLsb' 0 n = v := by
  apply BitVec.eq_of_getLsbD_eq
  intro i hi
  simp only [BitVec.getLsbD_extractLsb', BitVec.getLsbD_setWidth, hi, Nat.zero_add]
  simp
  intro
  omega

/-- The bits above a zero-extended operand are zero. -/
theorem extract_high {n : Nat} (v : BitVec n) (k : Nat) : (v.setWidth 48).extractLsb' n k = 0#k := by
  apply BitVec.eq_of_getLsbD_eq
  intro i hi
  simp [BitVec.getLsbD_extractLsb']

theorem getLsbD_pack (r : RawSample) (j : Nat) : r.pack.getLsbD j =
    if j < 8 then r.b5.getLsbD j else if j < 16 then r.b4.getLsbD (j - 8) else if j < 24 then r.b3.getLsbD (j - 16)
    else if j < 32 then r.b2.getLsbD (j - 24) else if j < 40 then r.b1.getLsbD (j - 32)
    else r.b0.getLsbD (j - 40) := by
  have h : r.pack.getLsbD j
      = BitVec.getLsbD (w := 8 + 8 + 8 + 8 + 8 + 8) (r.b0 ++ r.b1 ++ r.b2 ++ r.b3 ++ r.b4 ++ r.b5) j := rfl
  rw [h]
  simp only [BitVec.getLsbD_append, Nat.sub_sub]
  split_ifs <;> first | rfl | omega

/-- Unpacking a packed sample gives its bytes back. -/
@[simp] theorem unpack_pack (r : RawSample) : RawSample.unpack r.pack = r := by
  have h : ∀ (k : Nat) (b : Byte), (∀ i < 8, r.pack.getLsbD (k + i) = b.getLsbD i) →
      r.pack.extractLsb' k 8 = b := by
    intro k b h
    apply BitVec.eq_of_getLsbD_eq
    intro i hi
    simp only [BitVec.getLsbD_extractLsb', hi, h i hi]
    simp
  cases r
  simp only [RawSample.unpack, RawSample.mk.injEq]
  refine ⟨h _ _ ?_, h _ _ ?_, h _ _ ?_, h _ _ ?_, h _ _ ?_, h _ _ ?_⟩ <;>
  · intro i hi
    rw [getLsbD_pack]
    split_ifs <;> first | omega | (congr 1; omega)

/-- A command word under a mask that covers `OPC`, `RSV` and must-be-zero payload bits is its opcode alone. -/
theorem commandWord_and_mask (o : BitVec 8) (p k : BitVec 48) (h : p &&& k = 0#48) :
    commandWord o p &&& (0xFF#8 ++ 0xFF#8 ++ k) = o ++ 0x00#8 ++ 0#48 := by
  have hw : commandWord o p &&& (0xFF#8 ++ 0xFF#8 ++ k) = (o &&& 0xFF#8) ++ (0x00#8 &&& 0xFF#8) ++ (p &&& k) := by
    unfold commandWord
    rw [BitVec.and_append, BitVec.and_append]
  have ho : o &&& 0xFF#8 = o := BitVec.and_allOnes
  rw [hw, h, ho]
  rfl

/-- A zero-extended operand has no bit above its width. -/
theorem setWidth_and_mask {n m : Nat} (v : BitVec n) (k : BitVec m) (h : ∀ i < n, k.getLsbD i = false) :
    v.setWidth m &&& k = 0#m := by
  apply BitVec.eq_of_getLsbD_eq
  intro i hi
  by_cases hn : i < n
  · simp [h i hn]
  · simp [BitVec.getLsbD_of_ge v i (by omega)]

end Sys2Proof
end

