-- ==== Sys2Proof/Laws/State.lean ====
section
/-! SUPPORT. One lemma per field per update of State, true by unfolding, so that no later proof unfolds a record
update. -/

namespace Sys2Proof.Machine

@[simp] theorem State.setErr_regs (v : BitVec 4) (s : State) :
    (s.setErr v).regs = { s.regs with err := v } := rfl
@[simp] theorem State.setErr_inputs (v : BitVec 4) (s : State) : (s.setErr v).inputs = s.inputs := rfl
@[simp] theorem State.setErr_busIn (v : BitVec 4) (s : State) : (s.setErr v).busIn = s.busIn := rfl
@[simp] theorem State.setErr_chanIn (v : BitVec 4) (s : State) : (s.setErr v).chanIn = s.chanIn := rfl
@[simp] theorem State.setErr_responses (v : BitVec 4) (s : State) : (s.setErr v).responses = s.responses := rfl
@[simp] theorem State.setErr_events (v : BitVec 4) (s : State) : (s.setErr v).events = s.events := rfl

@[simp] theorem State.setDrv_regs (v : BitVec 2) (s : State) :
    (s.setDrv v).regs = { s.regs with drv := v } := rfl
@[simp] theorem State.setDrv_inputs (v : BitVec 2) (s : State) : (s.setDrv v).inputs = s.inputs := rfl
@[simp] theorem State.setDrv_busIn (v : BitVec 2) (s : State) : (s.setDrv v).busIn = s.busIn := rfl
@[simp] theorem State.setDrv_chanIn (v : BitVec 2) (s : State) : (s.setDrv v).chanIn = s.chanIn := rfl
@[simp] theorem State.setDrv_responses (v : BitVec 2) (s : State) : (s.setDrv v).responses = s.responses := rfl
@[simp] theorem State.setDrv_events (v : BitVec 2) (s : State) : (s.setDrv v).events = s.events := rfl

@[simp] theorem State.setDevaddr_regs (v : BitVec 7) (s : State) :
    (s.setDevaddr v).regs = { s.regs with devaddr := v } := rfl
@[simp] theorem State.setDevaddr_inputs (v : BitVec 7) (s : State) : (s.setDevaddr v).inputs = s.inputs := rfl
@[simp] theorem State.setDevaddr_busIn (v : BitVec 7) (s : State) : (s.setDevaddr v).busIn = s.busIn := rfl
@[simp] theorem State.setDevaddr_chanIn (v : BitVec 7) (s : State) : (s.setDevaddr v).chanIn = s.chanIn := rfl
@[simp] theorem State.setDevaddr_responses (v : BitVec 7) (s : State) : (s.setDevaddr v).responses = s.responses := rfl
@[simp] theorem State.setDevaddr_events (v : BitVec 7) (s : State) : (s.setDevaddr v).events = s.events := rfl

@[simp] theorem State.setSubd_regs (v : BitVec 1) (s : State) :
    (s.setSubd v).regs = { s.regs with subd := v } := rfl
@[simp] theorem State.setSubd_inputs (v : BitVec 1) (s : State) : (s.setSubd v).inputs = s.inputs := rfl
@[simp] theorem State.setSubd_busIn (v : BitVec 1) (s : State) : (s.setSubd v).busIn = s.busIn := rfl
@[simp] theorem State.setSubd_chanIn (v : BitVec 1) (s : State) : (s.setSubd v).chanIn = s.chanIn := rfl
@[simp] theorem State.setSubd_responses (v : BitVec 1) (s : State) : (s.setSubd v).responses = s.responses := rfl
@[simp] theorem State.setSubd_events (v : BitVec 1) (s : State) : (s.setSubd v).events = s.events := rfl

@[simp] theorem State.setMand_regs (v : BitVec 3) (s : State) :
    (s.setMand v).regs = { s.regs with mand := v } := rfl
@[simp] theorem State.setMand_inputs (v : BitVec 3) (s : State) : (s.setMand v).inputs = s.inputs := rfl
@[simp] theorem State.setMand_busIn (v : BitVec 3) (s : State) : (s.setMand v).busIn = s.busIn := rfl
@[simp] theorem State.setMand_chanIn (v : BitVec 3) (s : State) : (s.setMand v).chanIn = s.chanIn := rfl
@[simp] theorem State.setMand_responses (v : BitVec 3) (s : State) : (s.setMand v).responses = s.responses := rfl
@[simp] theorem State.setMand_events (v : BitVec 3) (s : State) : (s.setMand v).events = s.events := rfl

@[simp] theorem State.setSkip_regs (v : BitVec 6) (s : State) :
    (s.setSkip v).regs = { s.regs with skip := v } := rfl
@[simp] theorem State.setSkip_inputs (v : BitVec 6) (s : State) : (s.setSkip v).inputs = s.inputs := rfl
@[simp] theorem State.setSkip_busIn (v : BitVec 6) (s : State) : (s.setSkip v).busIn = s.busIn := rfl
@[simp] theorem State.setSkip_chanIn (v : BitVec 6) (s : State) : (s.setSkip v).chanIn = s.chanIn := rfl
@[simp] theorem State.setSkip_responses (v : BitVec 6) (s : State) : (s.setSkip v).responses = s.responses := rfl
@[simp] theorem State.setSkip_events (v : BitVec 6) (s : State) : (s.setSkip v).events = s.events := rfl

@[simp] theorem State.setLax_regs (v : BitVec 16) (s : State) :
    (s.setLax v).regs = { s.regs with lax := v } := rfl
@[simp] theorem State.setLax_inputs (v : BitVec 16) (s : State) : (s.setLax v).inputs = s.inputs := rfl
@[simp] theorem State.setLax_busIn (v : BitVec 16) (s : State) : (s.setLax v).busIn = s.busIn := rfl
@[simp] theorem State.setLax_chanIn (v : BitVec 16) (s : State) : (s.setLax v).chanIn = s.chanIn := rfl
@[simp] theorem State.setLax_responses (v : BitVec 16) (s : State) : (s.setLax v).responses = s.responses := rfl
@[simp] theorem State.setLax_events (v : BitVec 16) (s : State) : (s.setLax v).events = s.events := rfl

@[simp] theorem State.setLay_regs (v : BitVec 16) (s : State) :
    (s.setLay v).regs = { s.regs with lay := v } := rfl
@[simp] theorem State.setLay_inputs (v : BitVec 16) (s : State) : (s.setLay v).inputs = s.inputs := rfl
@[simp] theorem State.setLay_busIn (v : BitVec 16) (s : State) : (s.setLay v).busIn = s.busIn := rfl
@[simp] theorem State.setLay_chanIn (v : BitVec 16) (s : State) : (s.setLay v).chanIn = s.chanIn := rfl
@[simp] theorem State.setLay_responses (v : BitVec 16) (s : State) : (s.setLay v).responses = s.responses := rfl
@[simp] theorem State.setLay_events (v : BitVec 16) (s : State) : (s.setLay v).events = s.events := rfl

@[simp] theorem State.setLaz_regs (v : BitVec 16) (s : State) :
    (s.setLaz v).regs = { s.regs with laz := v } := rfl
@[simp] theorem State.setLaz_inputs (v : BitVec 16) (s : State) : (s.setLaz v).inputs = s.inputs := rfl
@[simp] theorem State.setLaz_busIn (v : BitVec 16) (s : State) : (s.setLaz v).busIn = s.busIn := rfl
@[simp] theorem State.setLaz_chanIn (v : BitVec 16) (s : State) : (s.setLaz v).chanIn = s.chanIn := rfl
@[simp] theorem State.setLaz_responses (v : BitVec 16) (s : State) : (s.setLaz v).responses = s.responses := rfl
@[simp] theorem State.setLaz_events (v : BitVec 16) (s : State) : (s.setLaz v).events = s.events := rfl

@[simp] theorem State.setSample_regs (v : BitVec 48) (s : State) :
    (s.setSample v).regs = { s.regs with sample := v } := rfl
@[simp] theorem State.setSample_inputs (v : BitVec 48) (s : State) : (s.setSample v).inputs = s.inputs := rfl
@[simp] theorem State.setSample_busIn (v : BitVec 48) (s : State) : (s.setSample v).busIn = s.busIn := rfl
@[simp] theorem State.setSample_chanIn (v : BitVec 48) (s : State) : (s.setSample v).chanIn = s.chanIn := rfl
@[simp] theorem State.setSample_responses (v : BitVec 48) (s : State) : (s.setSample v).responses = s.responses := rfl
@[simp] theorem State.setSample_events (v : BitVec 48) (s : State) : (s.setSample v).events = s.events := rfl

@[simp] theorem State.setSeq_regs (v : BitVec 4) (s : State) :
    (s.setSeq v).regs = { s.regs with seq := v } := rfl
@[simp] theorem State.setSeq_inputs (v : BitVec 4) (s : State) : (s.setSeq v).inputs = s.inputs := rfl
@[simp] theorem State.setSeq_busIn (v : BitVec 4) (s : State) : (s.setSeq v).busIn = s.busIn := rfl
@[simp] theorem State.setSeq_chanIn (v : BitVec 4) (s : State) : (s.setSeq v).chanIn = s.chanIn := rfl
@[simp] theorem State.setSeq_responses (v : BitVec 4) (s : State) : (s.setSeq v).responses = s.responses := rfl
@[simp] theorem State.setSeq_events (v : BitVec 4) (s : State) : (s.setSeq v).events = s.events := rfl

@[simp] theorem respond_regs (st : Status) (d : Decision) (data : BitVec 48) (s : State) :
    (respond st d data s).regs = s.regs := rfl
@[simp] theorem respond_inputs (st : Status) (d : Decision) (data : BitVec 48) (s : State) :
    (respond st d data s).inputs = s.inputs := rfl
@[simp] theorem respond_busIn (st : Status) (d : Decision) (data : BitVec 48) (s : State) :
    (respond st d data s).busIn = s.busIn := rfl
@[simp] theorem respond_chanIn (st : Status) (d : Decision) (data : BitVec 48) (s : State) :
    (respond st d data s).chanIn = s.chanIn := rfl
@[simp] theorem respond_responses (st : Status) (d : Decision) (data : BitVec 48) (s : State) :
    (respond st d data s).responses = s.responses ++ [responseWord st d data] := rfl
@[simp] theorem respond_events (st : Status) (d : Decision) (data : BitVec 48) (s : State) :
    (respond st d data s).events = s.events := rfl

@[simp] theorem raise_regs (st : Status) (d : Decision) (data : BitVec 48) (s : State) :
    (raise st d data s).regs = { s.regs with err := st.code } := rfl
@[simp] theorem raise_inputs (st : Status) (d : Decision) (data : BitVec 48) (s : State) :
    (raise st d data s).inputs = s.inputs := rfl
@[simp] theorem raise_busIn (st : Status) (d : Decision) (data : BitVec 48) (s : State) :
    (raise st d data s).busIn = s.busIn := rfl
@[simp] theorem raise_chanIn (st : Status) (d : Decision) (data : BitVec 48) (s : State) :
    (raise st d data s).chanIn = s.chanIn := rfl
@[simp] theorem raise_responses (st : Status) (d : Decision) (data : BitVec 48) (s : State) :
    (raise st d data s).responses = s.responses ++ [responseWord st d data] := rfl
@[simp] theorem raise_events (st : Status) (d : Decision) (data : BitVec 48) (s : State) :
    (raise st d data s).events = s.events := rfl

@[simp] theorem complete_regs (d : Decision) (data : BitVec 48) (s : State) :
    (complete d data s).regs = { s.regs with err := 0#4 } := rfl
@[simp] theorem complete_inputs (d : Decision) (data : BitVec 48) (s : State) :
    (complete d data s).inputs = s.inputs := rfl
@[simp] theorem complete_busIn (d : Decision) (data : BitVec 48) (s : State) :
    (complete d data s).busIn = s.busIn := rfl
@[simp] theorem complete_chanIn (d : Decision) (data : BitVec 48) (s : State) :
    (complete d data s).chanIn = s.chanIn := rfl
@[simp] theorem complete_responses (d : Decision) (data : BitVec 48) (s : State) :
    (complete d data s).responses = s.responses ++ [responseWord .ok d data] := rfl
@[simp] theorem complete_events (d : Decision) (data : BitVec 48) (s : State) :
    (complete d data s).events = s.events := rfl

@[simp] theorem coreReset_regs (s : State) : (coreReset s).regs = Regs.reset := rfl
@[simp] theorem coreReset_inputs (s : State) : (coreReset s).inputs = s.inputs := rfl
@[simp] theorem coreReset_busIn (s : State) : (coreReset s).busIn = s.busIn := rfl
@[simp] theorem coreReset_chanIn (s : State) : (coreReset s).chanIn = s.chanIn := rfl
@[simp] theorem coreReset_responses (s : State) : (coreReset s).responses = s.responses := rfl
@[simp] theorem coreReset_events (s : State) : (coreReset s).events = s.events := rfl

@[simp] theorem transact_regs (op : MicroOp) (s : State) :
    (transact op s).2.regs = { s.regs with seq := seqAfter (busAnswer op s) s.regs.seq } := rfl
@[simp] theorem transact_inputs (op : MicroOp) (s : State) :
    (transact op s).2.inputs = s.inputs := rfl
@[simp] theorem transact_busIn (op : MicroOp) (s : State) :
    (transact op s).2.busIn = s.busIn.tail := rfl
@[simp] theorem transact_chanIn (op : MicroOp) (s : State) :
    (transact op s).2.chanIn = s.chanIn := rfl
@[simp] theorem transact_responses (op : MicroOp) (s : State) :
    (transact op s).2.responses = s.responses := rfl
@[simp] theorem transact_events (op : MicroOp) (s : State) :
    (transact op s).2.events = s.events ++ [.bus s.regs.devaddr op (busResult op (busAnswer op s))] := rfl
@[simp] theorem transact_answer (op : MicroOp) (s : State) : (transact op s).1 = busAnswer op s := rfl

@[simp] theorem notify_regs (bytes : RawSample) (s : State) :
    (notify bytes s).2.regs = s.regs := rfl
@[simp] theorem notify_inputs (bytes : RawSample) (s : State) :
    (notify bytes s).2.inputs = s.inputs := rfl
@[simp] theorem notify_busIn (bytes : RawSample) (s : State) :
    (notify bytes s).2.busIn = s.busIn := rfl
@[simp] theorem notify_chanIn (bytes : RawSample) (s : State) :
    (notify bytes s).2.chanIn = s.chanIn.tail := rfl
@[simp] theorem notify_responses (bytes : RawSample) (s : State) :
    (notify bytes s).2.responses = s.responses := rfl
@[simp] theorem notify_events (bytes : RawSample) (s : State) :
    (notify bytes s).2.events = s.events ++ [.notify bytes (chanAnswer bytes s)] := rfl
@[simp] theorem notify_answer (bytes : RawSample) (s : State) : (notify bytes s).1 = chanAnswer bytes s := rfl

end Sys2Proof.Machine
end

