-- ==== Sys2Proof/Laws/Ops.lean ====
section
/-! SUPPORT. One lemma per shared operation: what it can do, which a proof cites instead of unfolding it. -/

namespace Sys2Proof.Machine

/-! ## The answers -/

theorem busAnswer_cons {s : State} {a : BusAnswer} {rest : List BusAnswer} (h : s.busIn = a :: rest)
    (op : MicroOp) : busAnswer op s = a := by
  simp [busAnswer, h]

theorem chanAnswer_cons {s : State} {a : ChanAnswer} {rest : List ChanAnswer} (h : s.chanIn = a :: rest)
    (bytes : RawSample) : chanAnswer bytes s = a := by
  simp [chanAnswer, h]

/-- The transport's answer depends on the pending answers, the history and the device address alone. -/
theorem busAnswer_congr {s s' : State} (hb : s'.busIn = s.busIn) (he : s'.events = s.events)
    (hd : s'.regs.devaddr = s.regs.devaddr) (op : MicroOp) : busAnswer op s' = busAnswer op s := by
  simp [busAnswer, hb, he, hd]

theorem chanAnswer_congr {s s' : State} (hc : s'.chanIn = s.chanIn) (he : s'.events = s.events)
    (bytes : RawSample) : chanAnswer bytes s' = chanAnswer bytes s := by
  simp [chanAnswer, hc, he]

theorem answersTo_congr (ops : List MicroOp) {s s' : State} (hb : s'.busIn = s.busIn) (he : s'.events = s.events)
    (hd : s'.regs.devaddr = s.regs.devaddr) : answersTo ops s' = answersTo ops s := by
  induction ops generalizing s s' with
  | nil => rfl
  | cons op rest ih =>
    have ha := busAnswer_congr hb he hd op
    simp only [answersTo, ha, List.cons.injEq, true_and]
    exact ih (by simp [hb]) (by simp [ha, he, hd]) (by simp [hd])

@[simp] theorem answersTo_length (ops : List MicroOp) (s : State) : (answersTo ops s).length = ops.length := by
  induction ops generalizing s with
  | nil => rfl
  | cons op rest ih => simp [answersTo, ih]

/-- Answers the state lists are the answers the transactions meet. -/
theorem answersTo_listed (ops : List MicroOp) (as rest : List BusAnswer) (s : State)
    (h : s.busIn = as ++ rest) (hl : as.length = ops.length) : answersTo ops s = as := by
  induction ops generalizing s as with
  | nil => exact (List.eq_nil_of_length_eq_zero hl).symm
  | cons op ops ih =>
    cases as with
    | nil => simp at hl
    | cons a as =>
      have ha : busAnswer op s = a := busAnswer_cons (by simpa using h) op
      simp only [answersTo, ha, List.cons.injEq, true_and]
      exact ih as _ (by simp [h]) (by simpa using hl)

/-! ## The micro-operations -/

theorem memWrite_eq (reg val : Byte) (s : State) :
    memWrite reg val s =
      ((match busAnswer (.write reg val) s with | .ok _ => true | .fail => false),
        (transact (.write reg val) s).2) := by
  rcases h : transact (.write reg val) s with ⟨a, t⟩
  have ha : busAnswer (.write reg val) s = a := congrArg Prod.fst h
  cases a <;> simp [memWrite, h, ha]

theorem memReadByte_eq (reg : Byte) (s : State) :
    memReadByte reg s =
      ((match busAnswer (.read reg .one) s with | .ok d => some d.b0 | .fail => none),
        (transact (.read reg .one) s).2) := by
  rcases h : transact (.read reg .one) s with ⟨a, t⟩
  have ha : busAnswer (.read reg .one) s = a := congrArg Prod.fst h
  cases a <;> simp [memReadByte, h, ha]

theorem memReadSample_eq (reg : Byte) (s : State) :
    memReadSample reg s =
      ((match busAnswer (.read reg .six) s with | .ok d => some d | .fail => none),
        (transact (.read reg .six) s).2) := by
  rcases h : transact (.read reg .six) s with ⟨a, t⟩
  have ha : busAnswer (.read reg .six) s = a := congrArg Prod.fst h
  cases a <;> simp [memReadSample, h, ha]

/-- What a list of writes can do: it consumes answers and adds events, one each and no more than the list has
writes, and steps SEQ; nothing else changes. -/
theorem writeAll_spec (pairs : List (Byte × Byte)) (s : State) :
    ∃ n, n ≤ pairs.length ∧
      (writeAll pairs s).2 =
        { s with
          regs := { s.regs with seq := (writeAll pairs s).2.regs.seq }
          busIn := s.busIn.drop n
          events := s.events
            ++ eventsOf s.regs.devaddr ((writesOf pairs).take n) (answersTo ((writesOf pairs).take n) s) } := by
  induction pairs generalizing s with
  | nil => exact ⟨0, by simp, by simp [writeAll, eventsOf]⟩
  | cons p rest ih =>
    obtain ⟨reg, val⟩ := p
    cases hb : busAnswer (.write reg val) s with
    | fail =>
      refine ⟨1, by simp, ?_⟩
      simp [writeAll, memWrite_eq, hb, eventsOf, writesOf, answersTo, transact]
    | ok d =>
      obtain ⟨n, hn, h⟩ := ih (transact (.write reg val) s).2
      refine ⟨n + 1, by simpa using hn, ?_⟩
      have hw : writeAll ((reg, val) :: rest) s = writeAll rest (transact (.write reg val) s).2 := by
        simp [writeAll, memWrite_eq, hb]
      rw [hw, h]
      simp [eventsOf, writesOf, answersTo]

/-- A list of writes all answered `ok`: every write is issued, SEQ counts them. -/
theorem writeAll_ok (pairs : List (Byte × Byte)) (ds : List RawSample) (s : State)
    (h : answersTo (writesOf pairs) s = ds.map .ok) :
    writeAll pairs s =
      (true, { s with
        regs := { s.regs with seq := s.regs.seq + BitVec.ofNat 4 pairs.length }
        busIn := s.busIn.drop pairs.length
        events := s.events ++ eventsOf s.regs.devaddr (writesOf pairs) (ds.map .ok) }) := by
  induction pairs generalizing s ds with
  | nil => simp [writeAll, eventsOf, writesOf]
  | cons p rest ih =>
    obtain ⟨reg, val⟩ := p
    cases ds with
    | nil => simp [answersTo, writesOf] at h
    | cons d ds =>
      have h' : busAnswer (.write reg val) s = .ok d ∧
          answersTo (writesOf rest) (transact (.write reg val) s).2 = ds.map .ok := by
        simpa [writesOf, answersTo] using h
      have hw : writeAll ((reg, val) :: rest) s = writeAll rest (transact (.write reg val) s).2 := by
        simp [writeAll, memWrite_eq, h'.1]
      have hseq : s.regs.seq + 1#4 + BitVec.ofNat 4 rest.length
          = s.regs.seq + BitVec.ofNat 4 (rest.length + 1) := by
        rw [BitVec.ofNat_add, BitVec.add_comm (BitVec.ofNat 4 rest.length), BitVec.add_assoc]
      rw [hw, ih ds _ h'.2]
      simp [h'.1, seqAfter, eventsOf, writesOf, hseq]

/-- A list of writes whose transaction `k` is the first to fail: the writes after it are not issued, SEQ counts
the ones before it. -/
theorem writeAll_fail (pairs : List (Byte × Byte)) (ds : List RawSample) (s : State)
    (hk : ds.length < pairs.length)
    (h : answersTo ((writesOf pairs).take (ds.length + 1)) s = ds.map .ok ++ [.fail]) :
    writeAll pairs s =
      (false, { s with
        regs := { s.regs with seq := s.regs.seq + BitVec.ofNat 4 ds.length }
        busIn := s.busIn.drop (ds.length + 1)
        events := s.events
          ++ eventsOf s.regs.devaddr ((writesOf pairs).take (ds.length + 1)) (ds.map .ok ++ [.fail]) }) := by
  induction pairs generalizing s ds with
  | nil => simp at hk
  | cons p rest ih =>
    obtain ⟨reg, val⟩ := p
    cases ds with
    | nil =>
      have hb : busAnswer (.write reg val) s = .fail := by simpa [writesOf, answersTo] using h
      simp [writeAll, memWrite_eq, hb, transact, seqAfter, eventsOf, writesOf]
    | cons d ds =>
      have h' : busAnswer (.write reg val) s = .ok d ∧
          answersTo ((writesOf rest).take (ds.length + 1)) (transact (.write reg val) s).2
            = ds.map .ok ++ [.fail] := by
        simpa [writesOf, answersTo] using h
      have hw : writeAll ((reg, val) :: rest) s = writeAll rest (transact (.write reg val) s).2 := by
        simp [writeAll, memWrite_eq, h'.1]
      have hseq : s.regs.seq + 1#4 + BitVec.ofNat 4 ds.length
          = s.regs.seq + BitVec.ofNat 4 (ds.length + 1) := by
        rw [BitVec.ofNat_add, BitVec.add_comm (BitVec.ofNat 4 ds.length), BitVec.add_assoc]
      rw [hw, ih ds _ (by simpa using hk) h'.2]
      simp [h'.1, seqAfter, eventsOf, writesOf, hseq]

/-! ## The commands as state changes -/

/-- Every instruction answers a next state: nothing stops the core (R190). -/
theorem exec_next (i : Instr) (s : State) : ∃ t, exec i s = .next t := by
  cases i with
  | rdreg rn =>
    simp only [exec, execRdreg]
    split <;> exact ⟨_, rfl⟩
  | _ => exact ⟨_, rfl⟩

/-- What one evaluation can do: inert, skip or send (R169). -/
theorem evaluate_cases (P : Params) (sample : RawSample) (data : BitVec 48) (s : State) :
    (s.regs.subd = 0#1 ∧ evaluate P sample data s = complete .inert data s) ∨
    (s.regs.subd ≠ 0#1 ∧ sendDecision P sample s.regs = false ∧
      evaluate P sample data s = complete .skip data (skipSample P s)) ∨
    (s.regs.subd ≠ 0#1 ∧ sendDecision P sample s.regs = true ∧ chanAnswer sample s = .ok ∧
      evaluate P sample data s = complete .send data (notify sample (acceptSample P sample s)).2) ∨
    (s.regs.subd ≠ 0#1 ∧ sendDecision P sample s.regs = true ∧ chanAnswer sample s = .fail ∧
      evaluate P sample data s = raise .channelError .send data (notify sample (acceptSample P sample s)).2) := by
  by_cases h0 : s.regs.subd = 0#1
  · exact .inl ⟨h0, by simp [evaluate, h0]⟩
  · have hc : chanAnswer sample (acceptSample P sample s) = chanAnswer sample s :=
      chanAnswer_congr rfl rfl sample
    cases hs : sendDecision P sample s.regs with
    | false => exact .inr (.inl ⟨h0, rfl, by simp [evaluate, h0, hs]⟩)
    | true =>
      rcases hn : notify sample (acceptSample P sample s) with ⟨a, t⟩
      have ha : chanAnswer sample s = a := hc ▸ congrArg Prod.fst hn
      cases a with
      | ok => exact .inr (.inr (.inl ⟨h0, rfl, ha, by simp [evaluate, h0, hs, sendSample, hn]⟩))
      | fail => exact .inr (.inr (.inr ⟨h0, rfl, ha, by simp [evaluate, h0, hs, sendSample, hn]⟩))

/-- What the burst read can do: the six bytes come and SAMPLE holds them, or nothing but SEQ and the bus
changes. -/
theorem readBlock_cases (P : Params) (s : State) :
    (∃ r, busAnswer (.read P.regAccelBase .six) s = .ok r ∧
      readBlock P s = (some r, { s with
        regs := { s.regs with sample := r.pack, seq := 1#4 }
        busIn := s.busIn.tail
        events := s.events ++ [.bus s.regs.devaddr (.read P.regAccelBase .six) (.ok r.bytes)] })) ∨
    (busAnswer (.read P.regAccelBase .six) s = .fail ∧
      readBlock P s = (none, { s with
        regs := { s.regs with seq := 0#4 }
        busIn := s.busIn.tail
        events := s.events ++ [.bus s.regs.devaddr (.read P.regAccelBase .six) .fail] })) := by
  have hb : busAnswer (.read P.regAccelBase .six) (s.setSeq 0#4) = busAnswer (.read P.regAccelBase .six) s :=
    busAnswer_congr rfl rfl rfl _
  cases h : busAnswer (.read P.regAccelBase .six) s with
  | ok r =>
    have hm : memReadSample P.regAccelBase (s.setSeq 0#4)
        = (some r, (transact (.read P.regAccelBase .six) (s.setSeq 0#4)).2) := by
      rw [memReadSample_eq, hb, h]
    refine .inl ⟨r, rfl, ?_⟩
    simp only [readBlock, hm, transact, hb, h, seqAfter, busResult, RawSample.bytes, ReadLen.toNat]
    rfl
  | fail =>
    have hm : memReadSample P.regAccelBase (s.setSeq 0#4)
        = (none, (transact (.read P.regAccelBase .six) (s.setSeq 0#4)).2) := by
      rw [memReadSample_eq, hb, h]
    refine .inr ⟨rfl, ?_⟩
    simp only [readBlock, hm, transact, hb, h, seqAfter, busResult]
    rfl

end Sys2Proof.Machine
end

