-- ==== Sys2Proof/Laws/PerInstr.lean ====
section
/-! SUPPORT. The family TableRow: every instruction's encoding is what its row of spec/opcode_table.json says. A
command's word, masked with the row's `mask`, is the row's `match`; a micro-operation is the byte list of R80 or
R81. One lemma per constructor. -/

namespace Sys2Proof.Laws.TableRow

/-- The encoding of `i` agrees with its row of the opcode table. -/
def Statement (i : Instr) : Prop :=
  match tableRow i with
  | some (m, k) => ∃ w, encode i = .command w ∧ w &&& k = m
  | none => ∃ reg more n, encode i = .transfer (reg :: more) n ∧ more.length ≤ 1

theorem init (addr : BitVec 7) : Statement (.init addr) :=
  ⟨_, rfl, commandWord_and_mask 0x01#8 _ 0xFFFFFFFFFF80#48 (setWidth_and_mask addr _ (by decide))⟩

theorem rdacc : Statement .rdacc :=
  ⟨_, rfl, commandWord_and_mask 0x02#8 _ 0xFFFFFFFFFFFF#48 (by decide)⟩

theorem lpenter (wf : Byte) : Statement (.lpenter wf) :=
  ⟨_, rfl, commandWord_and_mask 0x03#8 _ 0xFFFFFFFFFF00#48 (setWidth_and_mask wf _ (by decide))⟩

theorem lpexit : Statement .lpexit :=
  ⟨_, rfl, commandWord_and_mask 0x04#8 _ 0xFFFFFFFFFFFF#48 (by decide)⟩

theorem sub : Statement .sub :=
  ⟨_, rfl, commandWord_and_mask 0x05#8 _ 0xFFFFFFFFFFFF#48 (by decide)⟩

theorem unsub : Statement .unsub :=
  ⟨_, rfl, commandWord_and_mask 0x06#8 _ 0xFFFFFFFFFFFF#48 (by decide)⟩

theorem eval (sample : RawSample) : Statement (.eval sample) :=
  ⟨_, rfl, commandWord_and_mask 0x07#8 _ 0#48 (by simp)⟩

theorem poll : Statement .poll :=
  ⟨_, rfl, commandWord_and_mask 0x08#8 _ 0xFFFFFFFFFFFF#48 (by decide)⟩

theorem rdreg (rn : BitVec 4) : Statement (.rdreg rn) :=
  ⟨_, rfl, commandWord_and_mask 0x09#8 _ 0xFFFFFFFFFFF0#48 (setWidth_and_mask rn _ (by decide))⟩

theorem busWrite (reg val : Byte) : Statement (.busWrite reg val) :=
  ⟨reg, [val], 0, rfl, Nat.le_refl 1⟩

theorem busRead (reg : Byte) (len : ReadLen) : Statement (.busRead reg len) :=
  ⟨reg, [], len.toNat, rfl, Nat.zero_le 1⟩

end Sys2Proof.Laws.TableRow
end

