-- ==== Sys2Proof/Laws/RefSensor.lean ====
section
/-! SUPPORT. The reference channel's answers, and the reference sensor's registers: a read after a write to the same place gives the value written, a
write leaves every other place alone, and every write keeps the canonical form. -/

namespace Sys2Proof.Machine

/-- A read at another address is as before. -/
theorem readCell_writeCell_other (m : Memory) (a b : Nat) (v : Byte) (h : b ≠ a) :
    readCell (writeCell m a v) b = readCell m b := by
  induction m with
  | nil =>
    simp only [writeCell]
    split <;> simp [readCell, h.symm]
  | cons c rest ih =>
    obtain ⟨k, u⟩ := c
    simp only [writeCell]
    split
    · split <;> simp [readCell, h.symm]
    · split
      · rename_i hk
        split <;> simp [readCell, ← hk, h.symm]
      · simp [readCell, ih]

theorem readCell_eq_zero (m : Memory) (a : Nat) (h : ∀ c ∈ m, a < c.1) : readCell m a = 0#8 := by
  induction m with
  | nil => rfl
  | cons c rest ih =>
    obtain ⟨k, u⟩ := c
    have hk : a < k := h (k, u) (by simp)
    simp only [readCell]
    rw [if_neg (by omega)]
    exact ih (fun c hc => h c (by simp [hc]))

theorem Memory.wf_tail {c : Host.Cell} {rest : Memory} (h : Memory.wf (c :: rest)) :
    Memory.wf rest ∧ ∀ d ∈ rest, c.1 < d.1 := by
  obtain ⟨hs, hz⟩ := h
  rw [List.map_cons, List.pairwise_cons] at hs
  exact ⟨⟨hs.2, fun d hd => hz d (by simp [hd])⟩, fun d hd => hs.1 _ (List.mem_map_of_mem hd)⟩

/-- A read at the address written gives the value written. -/
theorem readCell_writeCell_same (m : Memory) (a : Nat) (v : Byte) (h : Memory.wf m) :
    readCell (writeCell m a v) a = v := by
  induction m with
  | nil =>
    simp only [writeCell]
    split <;> simp_all [readCell]
  | cons c rest ih =>
    obtain ⟨k, u⟩ := c
    obtain ⟨hw, hlt⟩ := Memory.wf_tail h
    simp only [writeCell]
    split
    · rename_i hak
      split
      · rename_i hv
        rw [hv]
        refine readCell_eq_zero _ _ (fun d hd => ?_)
        rcases List.mem_cons.1 hd with rfl | hd
        · exact hak
        · exact lt_trans hak (hlt d hd)
      · simp [readCell]
    · split
      · rename_i hak
        split
        · rename_i hv
          rw [hv, hak]
          exact readCell_eq_zero _ _ hlt
        · simp [readCell]
      · rename_i hne
        simp only [readCell]
        rw [if_neg (fun hk => hne hk.symm)]
        exact ih hw

theorem mem_writeCell {m : Memory} {a : Nat} {v : Byte} {c : Host.Cell} (h : c ∈ writeCell m a v) :
    c ∈ m ∨ (c = (a, v) ∧ v ≠ 0#8) := by
  induction m with
  | nil =>
    simp only [writeCell] at h
    split at h <;> simp_all
  | cons d rest ih =>
    obtain ⟨k, u⟩ := d
    simp only [writeCell] at h
    split at h
    · split at h
      · exact .inl h
      · rcases List.mem_cons.1 h with rfl | h
        · exact .inr ⟨rfl, by assumption⟩
        · exact .inl h
    · split at h
      · split at h
        · exact .inl (List.mem_cons_of_mem _ h)
        · rcases List.mem_cons.1 h with rfl | h
          · exact .inr ⟨rfl, by assumption⟩
          · exact .inl (List.mem_cons_of_mem _ h)
      · rcases List.mem_cons.1 h with rfl | h
        · exact .inl (by simp)
        · rcases ih h with h | h
          · exact .inl (List.mem_cons_of_mem _ h)
          · exact .inr h

/-- A write keeps the canonical form. -/
theorem writeCell_wf (m : Memory) (a : Nat) (v : Byte) (h : Memory.wf m) : Memory.wf (writeCell m a v) := by
  refine ⟨?_, fun c hc => ?_⟩
  · induction m with
    | nil =>
      simp only [writeCell]
      split <;> simp
    | cons c rest ih =>
      obtain ⟨k, u⟩ := c
      obtain ⟨hw, hlt⟩ := Memory.wf_tail h
      have hs := h.1
      simp only [writeCell]
      split
      · rename_i hak
        split
        · exact hs
        · rw [List.map_cons, List.pairwise_cons]
          refine ⟨fun x hx => ?_, hs⟩
          obtain ⟨d, hd, rfl⟩ := List.mem_map.1 hx
          rcases List.mem_cons.1 hd with rfl | hd
          · exact hak
          · exact lt_trans hak (hlt d hd)
      · split
        · rename_i hak
          split
          · exact hw.1
          · rw [List.map_cons, List.pairwise_cons]
            refine ⟨fun x hx => ?_, hw.1⟩
            obtain ⟨d, hd, rfl⟩ := List.mem_map.1 hx
            exact hak ▸ hlt d hd
        · rw [List.map_cons, List.pairwise_cons]
          refine ⟨fun x hx => ?_, ih hw⟩
          obtain ⟨d, hd, rfl⟩ := List.mem_map.1 hx
          rcases mem_writeCell hd with hd | ⟨rfl, -⟩
          · exact hlt d hd
          · show k < a
            omega
  · rcases mem_writeCell hc with hc | ⟨rfl, hv⟩
    · exact h.2 c hc
    · exact hv

/-- Storing a sample keeps the canonical form. -/
theorem RefSensor.store_wf (m : Memory) (a : Nat) (r : RawSample) (h : Memory.wf m) :
    Memory.wf (RefSensor.store m a r) := by
  simp only [RefSensor.store]
  repeat apply writeCell_wf
  exact h

/-- One transaction keeps the sensor's registers in canonical form. -/
theorem RefSensor.answer_wf (P : Params) (addr : BitVec 7) (op : MicroOp) (r : RefSensor) (h : Memory.wf r.dev) :
    Memory.wf (r.answer P addr op).2.dev := by
  have hp : Memory.wf (r.prepare P op).dev := by
    unfold RefSensor.prepare
    split
    · split
      · exact RefSensor.store_wf _ _ _ h
      · exact h
    · exact h
  simp only [RefSensor.answer]
  split
  · exact hp
  · split
    · exact writeCell_wf _ _ _ hp
    · exact hp

/-- The array before a run, register by register. -/
theorem RefSensor.readCell_initialDev (P : Params) (a : Nat) :
    readCell (RefSensor.initialDev P) a = if a = P.regIdentity.toNat then P.idExpected else 0#8 := by
  unfold RefSensor.initialDev
  split
  · rename_i h
    exact h ▸ readCell_writeCell_same _ _ _ (by simp [Memory.wf])
  · rename_i h
    exact readCell_writeCell_other _ _ _ _ h

theorem RefSensor.initialDev_wf (P : Params) : Memory.wf (RefSensor.initialDev P) :=
  writeCell_wf _ _ _ (by simp [Memory.wf])

@[simp] theorem RefChannel.answer_connected : RefChannel.answer ⟨true⟩ = .ok := rfl
@[simp] theorem RefChannel.answer_disconnected : RefChannel.answer ⟨false⟩ = .fail := rfl

end Sys2Proof.Machine
end

