-- ==== Sys2Proof/Laws/Wire.lean ====
section
/-! SUPPORT. What a list of bytes sent on the wire can do, and what the transport answers: one lemma per function
of the wire view. -/

namespace Sys2Proof.Machine

/-- All bytes were acknowledged exactly when each acknowledge came. -/
theorem wireSend_all (bytes : List (Byte × Bool)) : (wireSend bytes).2 = bytes.all Prod.snd := by
  induction bytes with
  | nil => rfl
  | cons p rest ih =>
    obtain ⟨b, a⟩ := p
    cases a <;> simp [wireSend, ih]

/-- When every byte is acknowledged, all are seen. -/
theorem wireSend_acked (bytes : List Byte) :
    wireSend (bytes.map (fun b => (b, true))) = (bytes.map (fun b => .sent b true), true) := by
  induction bytes with
  | nil => rfl
  | cons b rest ih => simp [wireSend, ih]

/-- The transport answers `ok` exactly when the line lets the transaction through. -/
theorem wireTransaction_answer (addr : BitVec 7) (op : MicroOp) (l : WireLine) :
    (wireTransaction addr op l).2 = if l.passes op then .ok l.data else .fail := by
  obtain ⟨free, again, a1, a2, a3, d⟩ := l
  cases op <;> cases free <;> cases a1 <;> cases a2 <;> cases a3 <;> cases again <;>
    cases h : Config.repeatedStart <;>
    simp [wireTransaction, wireWrite, wireRead, wireReadBytes, wireSend, WireLine.passes, h]

end Sys2Proof.Machine
end

