-- ==== Sys2Proof/Tests/Slice0.lean ====
section
/-! SUPPORT. The model's own tests. Expected values come from spec/95_test_vectors.md (its vector's id stands in
each comment) or, where a word is written out bit by bit, from spec/30_encoding.md; the second part shows for
every obligation with hypotheses that they can be met. -/

namespace Sys2Proof.Tests

open Sys2Proof.Machine

/-! ## A small state, and the test binding TB (95 section 1) -/

/-- The binding TB of the OPEN parameters: a sample assignment, no claim about a sensor. -/
def tb : Params where
  fsG := 2
  threshRaw := 628023312898483455
  mandSubscribe := 5
  mandMotion := 4
  skipCap := 50
  idExpected := 0x68#8
  regSignalPathReset := 0x68#8
  valSignalPathReset := 0x07#8
  regSmplrtDiv := 0x19#8
  cfgSmplrtDiv := 0x07#8
  regLpf := 0x1A#8
  cfgLpf := 0x00#8
  regFsRange := 0x1C#8
  cfgFsRange := 0x00#8
  regPwrMode := 0x6B#8
  valPwrActive := 0x00#8
  regIdentity := 0x75#8
  regAccelBase := 0x3B#8
  wfLegal := [0#8, 1#8, 2#8, 3#8]
  lpEnterSeq := fun wf => [(0x6C#8, (wf <<< 6) ||| 0x07#8), (0x6B#8, 0x28#8)]
  lpExitSeq := [(0x6C#8, 0x00#8), (0x6B#8, 0x00#8)]

/-- Reset, with the given driver state, answers and throttle. -/
def start (drv : BitVec 2) (busIn : List BusAnswer) (chanIn : List ChanAnswer) : State :=
  { State.reset with
    regs := { Regs.reset with drv := drv, devaddr := 0x68#7 }
    busIn := busIn
    chanIn := chanIn }

/-- The same, subscribed. -/
def armed (mand : BitVec 3) (skip : BitVec 6) (la : RawSample) (s : State) : State :=
  { s with regs := { s.regs with
      subd := 1#1, mand := mand, skip := skip, lax := la.b0 ++ la.b1, lay := la.b2 ++ la.b3,
      laz := la.b4 ++ la.b5 } }

/-- The samples of 95 section 3.4. -/
def zg : RawSample := ⟨0#8, 0#8, 0#8, 0#8, 0x40#8, 0#8⟩
def sampleA : RawSample := ⟨0x6D#8, 0xF8#8, 0#8, 0#8, 0#8, 0#8⟩
def sampleB : RawSample := ⟨0#8, 0#8, 0x6D#8, 0xF8#8, 0#8, 0#8⟩

/-- The state an outcome holds, for checking fields. -/
def after (o : Host.Outcome State Fault Refusal) : Option State :=
  match o with
  | .next t => some t
  | .fault _ => none
  | .refused _ => none

/-! ## Decoding: words written out from 30_encoding.md R71 and R75, and the refusals T-EN -/

/-- OPC 00000001, RSV 0, PAY[6:0] = 1101000. -/
theorem test_decode_init :
    decode 0b0000000100000000000000000000000000000000000000000000000001101000#64 = .ok (.init 0x68#7) := by
  rfl

theorem test_decode_rdacc :
    decode 0b0000001000000000000000000000000000000000000000000000000000000000#64 = .ok .rdacc := by rfl

/-- OPC 00000011, PAY[7:0] = 10000011. -/
theorem test_decode_lpenter :
    decode 0b0000001100000000000000000000000000000000000000000000000010000011#64 = .ok (.lpenter 0x83#8) := by
  rfl

theorem test_decode_lpexit :
    decode 0b0000010000000000000000000000000000000000000000000000000000000000#64 = .ok .lpexit := by rfl

theorem test_decode_sub :
    decode 0b0000010100000000000000000000000000000000000000000000000000000000#64 = .ok .sub := by rfl

theorem test_decode_unsub :
    decode 0b0000011000000000000000000000000000000000000000000000000000000000#64 = .ok .unsub := by rfl

/-- OPC 00000111, then the six bytes 05 94 00 01 3F C2. -/
theorem test_decode_eval :
    decode 0b0000011100000000000001011001010000000000000000010011111111000010#64
      = .ok (.eval ⟨0x05#8, 0x94#8, 0x00#8, 0x01#8, 0x3F#8, 0xC2#8⟩) := by rfl

theorem test_decode_poll :
    decode 0b0000100000000000000000000000000000000000000000000000000000000000#64 = .ok .poll := by rfl

/-- OPC 00001001, PAY[3:0] = 1010. -/
theorem test_decode_rdreg :
    decode 0b0000100100000000000000000000000000000000000000000000000000001010#64 = .ok (.rdreg 10#4) := by rfl

/-- R80: first byte in the high half. -/
theorem test_decode_busWrite : decodeTableWord 16 0b0110101100101000 = some (.busWrite 0x6B#8 0x28#8) := by rfl

/-- R81. -/
theorem test_decode_busRead : decodeTableWord 8 0b01110101 = some (.busRead 0x75#8 .one) := by rfl

/-- T-EN-1, T-EN-2, T-EN-3. -/
theorem test_reserved_opcodes :
    decode 0x0000000000000000#64 = .error .illegalCommand ∧ decode 0x0A00000000000000#64 = .error .illegalCommand ∧
      decode 0xFF0000000000007B#64 = .error .illegalCommand := ⟨rfl, rfl, rfl⟩

/-- T-EN-4, T-EN-5, T-EN-6, T-EN-8, T-EN-9, T-EN-11, T-EN-16. -/
theorem test_must_be_zero_bits :
    decode 0x01000000000000D0#64 = .error .illegalOperand ∧ decode 0x0101000000000068#64 = .error .illegalOperand ∧
      decode 0x0200000000000001#64 = .error .illegalOperand ∧
      decode 0x0300000000000101#64 = .error .illegalOperand ∧
      decode 0x0500000000000001#64 = .error .illegalOperand ∧
      decode 0x0900000000000014#64 = .error .illegalRdreg ∧
      decode 0x07FFFFFFFFFFFFFF#64 = .error .illegalOperand := ⟨rfl, rfl, rfl, rfl, rfl, rfl, rfl⟩

theorem test_malformed_transfer : decodeTransfer [1#8, 2#8] 1 = .error .malformedTransfer ∧
    decodeTransfer [1#8] 2 = .error .malformedTransfer ∧ decodeTransfer [] 0 = .error .malformedTransfer :=
  ⟨rfl, rfl, rfl⟩

/-! ## Well-formedness: each check refuses an ill-formed term -/

/-- T-EN-7 and T-EN-10: LPENTER 4 is not in TB's WF_LEGAL, RDREG 11 names no register. -/
theorem test_illformed_instr :
    Instr.wellFormed tb (.lpenter 4#8) = false ∧ Instr.wellFormed tb (.rdreg 11#4) = false ∧
      Instr.wellFormed tb (.lpenter 3#8) = true ∧ Instr.wellFormed tb (.rdreg 10#4) = true := by decide

/-- R237, one violation each. -/
theorem test_illformed_params :
    tb.wellFormed = true ∧ { tb with mandMotion := 0 }.wellFormed = false ∧
      { tb with mandMotion := 6 }.wellFormed = false ∧ { tb with mandSubscribe := 8 }.wellFormed = false ∧
      { tb with skipCap := 0 }.wellFormed = false ∧ { tb with skipCap := 64 }.wellFormed = false ∧
      { tb with threshRaw := 2 ^ 64 }.wellFormed = false ∧ { tb with regAccelBase := 251#8 }.wellFormed = false ∧
      { tb with wfLegal := [] }.wellFormed = false ∧ { tb with lpExitSeq := [] }.wellFormed = false ∧
      { tb with lpEnterSeq := fun _ => [] }.wellFormed = false := by decide

/-! ## The driver -/

/-- T-DR-1: six transactions, DRV = 1, SEQ = 6. -/
theorem test_init_succeeds :
    let t := runInit tb 0x68#7 (start 0#2 (List.replicate 6 (.ok ⟨0x68#8, 0#8, 0#8, 0#8, 0#8, 0#8⟩)) [])
    t.regs.drv = 1#2 ∧ t.regs.seq = 6#4 ∧ t.regs.devaddr = 0x68#7 ∧ t.responses = [0x0000000000000000#64] ∧
      t.events = [.bus 0x68#7 (.write 0x68#8 0x07#8) (.ok []), .bus 0x68#7 (.write 0x19#8 0x07#8) (.ok []),
        .bus 0x68#7 (.write 0x1A#8 0x00#8) (.ok []), .bus 0x68#7 (.write 0x1C#8 0x00#8) (.ok []),
        .bus 0x68#7 (.write 0x6B#8 0x00#8) (.ok []), .bus 0x68#7 (.read 0x75#8 .one) (.ok [0x68#8])] := by
  decide

/-- T-DR-2 with `k = 2`, from an ACTIVE driver (T-DR-5): the handle is invalid afterwards. -/
theorem test_init_fails_at_step_2 :
    let t := runInit tb 0x69#7 (start 1#2 [.ok default, .ok default, .fail, .ok default] [])
    t.regs.err = 1#4 ∧ t.regs.drv = 0#2 ∧ t.regs.devaddr = 0x69#7 ∧ t.regs.seq = 2#4 ∧
      t.events.length = 3 ∧ t.responses = [0x1000000000000000#64] ∧ t.busIn = [.ok default] := by decide

/-- T-DR-8: extreme bytes are answered as they come. -/
theorem test_rdacc_extreme_bytes :
    let t := runRdacc tb (start 2#2 [.ok ⟨0x80#8, 0x00#8, 0x7F#8, 0xFF#8, 0xFF#8, 0xFF#8⟩] [])
    t.regs.sample = 0x80007FFFFFFF#48 ∧ t.regs.seq = 1#4 ∧ t.regs.drv = 2#2 ∧
      t.responses = [0x000080007FFFFFFF#64] := by decide

/-- T-DR-7: a failed read keeps SAMPLE. -/
theorem test_rdacc_fails :
    let t := runRdacc tb ((start 1#2 [.fail] []).setSample 0x000000004000#48)
    t.regs.sample = 0x000000004000#48 ∧ t.regs.seq = 0#4 ∧ t.regs.err = 1#4 ∧ t.regs.drv = 1#2 := by decide

/-- T-DR-9, LPENTER 3. -/
theorem test_lpenter :
    let t := runLpenter tb 3#8 (start 1#2 [.ok default, .ok default] [])
    t.regs.drv = 2#2 ∧ t.regs.seq = 2#4 ∧ t.events = [.bus 0x68#7 (.write 0x6C#8 0xC7#8) (.ok []),
      .bus 0x68#7 (.write 0x6B#8 0x28#8) (.ok [])] := by decide

/-- T-EN-7 against T-EN-15: the operand check comes before `NotReady`. -/
theorem test_lpenter_check_order :
    (runLpenter tb 4#8 (start 0#2 [] [])).responses = [0x5000000000000000#64] ∧
      (runLpenter tb 1#8 (start 0#2 [] [])).responses = [0x4000000000000000#64] := by decide

/-- T-DR-11: LPEXIT fails at step 1, DRV stays 2. -/
theorem test_lpexit_fails_at_step_1 :
    let t := runLpexit tb (start 2#2 [.ok default, .fail] [])
    t.regs.drv = 2#2 ∧ t.regs.seq = 1#4 ∧ t.regs.err = 1#4 ∧ t.responses = [0x1000000000000000#64] := by decide

/-- T-DR-13: LPEXIT in ACTIVE. -/
theorem test_lpexit_in_active :
    let t := runLpexit tb (start 1#2 [.ok default, .ok default] [])
    t.regs.drv = 1#2 ∧ t.regs.seq = 2#4 ∧ t.regs.err = 0#4 := by decide

/-! ## The decoder and the classifier -/

/-- T-DC-2. -/
theorem test_decode_sample :
    decodeSample ⟨0x7F#8, 0xFF#8, 0x80#8, 0x00#8, 0xFF#8, 0xFF#8⟩ = ⟨32767, -32768, -1⟩ := by decide

/-- T-DC-15, T-DC-28, T-DC-29. -/
theorem test_magnitudes :
    cross ⟨1, 2, 3⟩ ⟨4, 5, 6⟩ = ⟨-3, 6, -3⟩ ∧ mag2 ⟨0, -32768, -32768⟩ ⟨0, 32767, -32768⟩ = 4611545282012774400 ∧
      mag2 ⟨-32768, -32768, -32768⟩ ⟨32767, -32768, 32767⟩ = 9223090564025548800 := by decide

/-- T-DC-22 to T-DC-25 bracket the threshold. -/
theorem test_threshold_bracket :
    large tb ⟨32767, 0, 0⟩ ⟨0, 24185, 0⟩ = false ∧ large tb ⟨32767, 0, 0⟩ ⟨0, 24186, 0⟩ = true ∧
      large tb ⟨-32768, 0, 0⟩ ⟨0, 24184, 0⟩ = false ∧ large tb ⟨-32768, 0, 0⟩ ⟨0, 24185, 0⟩ = true := by decide

/-- T-DC-29 on the datapath: the accumulator is unsigned. -/
theorem test_datapath :
    (mag2Datapath 0x8000#16 0x8000#16 0x8000#16 0x7FFF#16 0x8000#16 0x7FFF#16).toNat = 9223090564025548800 := by
  decide

/-! ## The throttle -/

/-- T-TH-1, second case. -/
theorem test_sub :
    let t := runSub tb (armed 0#3 37#6 ⟨0x00#8, 0x64#8, 0xFF#8, 0x38#8, 0x3E#8, 0x80#8⟩ (start 0#2 [] []))
    t.regs = { Regs.reset with devaddr := 0x68#7, subd := 1#1, mand := 5#3 } := by decide

/-- R152's example: UNSUB keeps the counters. -/
theorem test_unsub :
    let t := runUnsub (armed 2#3 0#6 sampleA (start 0#2 [] []))
    t.regs.subd = 0#1 ∧ t.regs.mand = 2#3 ∧ t.regs.lax = 0x6DF8#16 := by decide

/-- T-TH-5: the burst is re-armed, not accumulated. -/
theorem test_eval_large_motion :
    let t := runEval tb sampleB (armed 2#3 0#6 sampleA (start 0#2 [] [.ok]))
    t.regs.mand = 3#3 ∧ t.regs.skip = 0#6 ∧ t.regs.lax = 0#16 ∧ t.regs.lay = 0x6DF8#16 ∧
      t.events = [.notify sampleB .ok] ∧ t.responses = [0x0300000000000000#64] := by decide

/-- T-TH-8 and R161's example: a channel failure rolls nothing back. -/
theorem test_eval_channel_fails :
    let t := runEval tb zg (armed 1#3 3#6 zg (start 0#2 [] [.fail]))
    t.regs.mand = 0#3 ∧ t.regs.skip = 0#6 ∧ t.regs.laz = 0x4000#16 ∧ t.regs.err = 3#4 ∧
      t.responses = [0x3300000000000000#64] := by decide

/-- T-TH-10, second case: SKIP with the bytes as data. -/
theorem test_poll_skips :
    let t := runPoll tb (armed 0#3 3#6 zg (start 1#2 [.ok zg] [.ok]))
    t.regs.skip = 4#6 ∧ t.regs.sample = 0x000000004000#48 ∧ t.responses = [0x0200000000004000#64] ∧
      t.chanIn = [.ok] := by decide

/-- T-TH-11: a failed poll does not count towards the floor. -/
theorem test_poll_fails :
    let t := runPoll tb (armed 0#3 50#6 zg (start 1#2 [.fail] []))
    t.regs.skip = 50#6 ∧ t.regs.seq = 0#4 ∧ t.regs.err = 1#4 ∧ t.responses = [0x1000000000000000#64] := by decide

/-! ## Host access, micro-operations, the input port -/

/-- 3.5: a 16-bit pattern, not sign-extended. -/
theorem test_rdreg_signed_register :
    (after (exec (.rdreg 6#4) ((start 0#2 [] []).setLax 0xFFFF#16))).map State.responses
      = some [0x000000000000FFFF#64] := by decide

/-- T-EN-18: an illegal RDREG leaves ERR. -/
theorem test_rdreg_illegal :
    (after (exec (.rdreg 11#4) ((start 0#2 [] []).setErr 5#4))).map (fun t => (t.regs.err, t.responses))
      = some (5#4, [0x5000000000000000#64]) := by decide

/-- R45: SEQ steps on `ok`. -/
theorem test_busWrite :
    (after (exec (.busWrite 0x6B#8 0x28#8) (start 1#2 [.ok default] []))).map (fun t => (t.regs.seq, t.events))
      = some (1#4, [.bus 0x68#7 (.write 0x6B#8 0x28#8) (.ok [])]) := by decide

/-- R46: a failing read raises BusError. -/
theorem test_busRead_fails :
    (after (exec (.busRead 0x75#8 .one) (start 1#2 [.fail] []))).map (fun t => (t.regs.seq, t.regs.err, t.responses))
      = some (0#4, 1#4, [0x1000000000000000#64]) := by decide

/-- T-EN-3 through the input port. -/
theorem test_step_reserved_opcode :
    (after (step { State.reset with inputs := [.present (.command 0xFF0000000000007B#64)] })).map
        (fun t => (t.regs.err, t.responses, t.inputs)) = some (6#4, [0x6000000000000000#64], []) := by decide

/-- T-EN-17 through `withFetchWord`, from reset. -/
theorem test_step_runs_eval_from_reset :
    (after (step (State.reset.withFetchWord 64 0x0700FFFFFFFFFFFF))).map (fun t => (t.regs, t.responses))
      = some (Regs.reset, [0x0100000000000000#64]) := by decide

/-- R221: reset after the one transaction of an RDACC: the transaction has happened, the rest is abandoned. -/
theorem test_reset_during_rdacc :
    after (serveCut 0x0200000000000000#64 1 (start 1#2 [.ok zg, .fail] []))
      = some { start 1#2 [.fail] [] with
          regs := Regs.reset
          events := [.bus 0x68#7 (.read Config.params.regAccelBase .six) (.ok zg.bytes)] } := by rfl

/-- R221: reset before the first call of an INIT: nothing has happened on the bus. -/
theorem test_reset_before_first_call :
    after (serveCut 0x0100000000000068#64 0 (start 1#2 [.fail] []))
      = some { start 1#2 [.fail] [] with regs := Regs.reset } := by rfl

/-- R62: a write is read back. -/
theorem test_reference_sensor :
    let r : RefSensor := ⟨[(0x75, 0x68#8)], 0x68#7, [zg], none⟩
    (RefSensor.script tb 0x68#7 [.write 0x6B#8 0x28#8, .read 0x3B#8 .six] r).1 = [.ok default, .ok zg] ∧
      readCell (RefSensor.script tb 0x68#7 [.write 0x6B#8 0x28#8] r).2.dev 0x6B = 0x28#8 ∧
      (RefSensor.script tb 0x69#7 [.write 0x6B#8 0x28#8] r).1 = [.fail] := by decide

/-- R62: the reference array, and the reference channel connected and not. -/
theorem test_reference_environment :
    (RefSensor.initial tb 0x68#7 [] none).dev = [(0x75, 0x68#8)] ∧
      RefChannel.script [⟨true⟩, ⟨false⟩] = [.ok, .fail] := by decide

/-- R48, R49: the wire of a write at address 0x68, and of one whose register byte is not acknowledged. -/
theorem test_wire_write :
    wireOf (.bus 0x68#7 (.write 0x6B#8 0x28#8) (.ok [])) ⟨true, true, true, true, true, zg⟩
        = some [.start, .sent 0xD0#8 true, .sent 0x6B#8 true, .sent 0x28#8 true, .stop] ∧
      wireOf (.bus 0x68#7 (.write 0x6B#8 0x28#8) .fail) ⟨true, true, true, false, true, zg⟩
        = some [.start, .sent 0xD0#8 true, .sent 0x6B#8 false, .stop] ∧
      wireOf (.bus 0x68#7 (.write 0x6B#8 0x28#8) .fail) ⟨false, true, true, true, true, zg⟩ = some [.busy] := by
  decide

/-! ## The hypotheses of the obligations can be met -/

/-- A state with one command word at its input. -/
def fed (w : BitVec 64) (s : State) : State := { s with inputs := [.present (.command w)] }

theorem test_meets_EncodeDecodeRoundTrip : decodeEncoding (.transfer [0x3B#8] 6) = .ok (.busRead 0x3B#8 .six) := by
  rfl

theorem test_meets_ReservedOpcodeRefused :
    (fed 0x0A00000000000000#64 State.reset).inputs = .present (.command 0x0A00000000000000#64) :: [] ∧
      (opcode 0x0000000000000001#64 = 0x00#8 ∧ 0x0A ≤ (opcode 0x0A00000000000000#64).toNat) := by decide

theorem test_meets_IllegalOperandRefused_bits :
    1 ≤ (opcode 0x0900000000000010#64).toNat ∧ (opcode 0x0900000000000010#64).toNat ≤ 9 ∧
      0x0900000000000010#64 &&& mustBeZeroBits (opcode 0x0900000000000010#64) ≠ 0#64 ∧
      0x0100000000000080#64 &&& mustBeZeroBits (opcode 0x0100000000000080#64) ≠ 0#64 := by decide

theorem test_meets_IllegalOperandRefused_operands : 11 ≤ (11#4).toNat ∧ 4#8 ∉ tb.wfLegal := by decide

theorem test_wake_selector_legal : Config.wfFirst ∈ Config.params.wfLegal := by simp [Config.params]

theorem test_meets_NotReadyRefused :
    State.reset.regs.drv = 0#2 ∧ ∃ wf ∈ Config.params.wfLegal, Instr.lpenter wf = .lpenter Config.wfFirst :=
  ⟨rfl, _, test_wake_selector_legal, rfl⟩

/-- Six successful answers, the last with the byte `id` first. -/
def sixAnswers (id : Byte) : List BusAnswer :=
  List.replicate 5 (.ok default) ++ [.ok ⟨id, 0#8, 0#8, 0#8, 0#8, 0#8⟩]

theorem test_meets_InitSemantics_match :
    answersTo (stepList Config.params (.init 0x68#7)) ((start 0#2 (sixAnswers Config.idExpected) []).setDevaddr 0x68#7)
      = (List.replicate 5 (default : RawSample)).map .ok ++ [.ok ⟨Config.idExpected, 0#8, 0#8, 0#8, 0#8, 0#8⟩] ∧
      (⟨Config.idExpected, 0#8, 0#8, 0#8, 0#8, 0#8⟩ : RawSample).b0 = Config.params.idExpected :=
  ⟨answersTo_listed _ _ [] _ (by simp [start, sixAnswers, State.setDevaddr]) rfl, rfl⟩

theorem test_meets_InitSemantics_mismatch :
    answersTo (stepList Config.params (.init 0x68#7))
        ((start 0#2 (sixAnswers (Config.idExpected + 1#8)) []).setDevaddr 0x68#7)
      = (List.replicate 5 (default : RawSample)).map .ok
        ++ [.ok ⟨Config.idExpected + 1#8, 0#8, 0#8, 0#8, 0#8, 0#8⟩] ∧
      Config.idExpected + 1#8 ≠ Config.params.idExpected := by
  refine ⟨answersTo_listed _ _ [] _ (by simp [start, sixAnswers, State.setDevaddr]) rfl, ?_⟩
  simp

/-- Boundary: the last step fails. -/
theorem test_meets_InitBusFailure_last :
    answersTo ((stepList Config.params (.init 0x68#7)).take 6)
        ((start 0#2 (List.replicate 5 (.ok default) ++ [.fail]) []).setDevaddr 0x68#7)
      = (List.replicate 5 (default : RawSample)).map .ok ++ [.fail] :=
  answersTo_listed _ _ [] _ (by simp [start, State.setDevaddr]) rfl

/-- Boundary: step 0 fails. -/
theorem test_meets_InitBusFailure_first :
    answersTo ((stepList Config.params (.init 0x68#7)).take 1) ((start 0#2 [.fail] []).setDevaddr 0x68#7)
      = ([] : List RawSample).map .ok ++ [.fail] := by rfl

theorem test_meets_RdaccReads :
    (start 1#2 [.ok zg] []).regs.drv ≠ 0#2 ∧
      busAnswer (.read Config.params.regAccelBase .six) (start 1#2 [.ok zg] []) = .ok zg ∧
      (start 0#2 [] []).regs.drv = 0#2 := ⟨by decide, rfl, rfl⟩

theorem test_meets_RdaccBusFailure :
    (start 1#2 [.fail] []).regs.drv ≠ 0#2 ∧
      busAnswer (.read Config.params.regAccelBase .six) (start 1#2 [.fail] []) = .fail := ⟨by decide, rfl⟩

theorem answers_all_ok (ops : List MicroOp) :
    answersTo ops (start 1#2 (List.replicate ops.length (.ok default)) [])
      = (List.replicate ops.length (default : RawSample)).map .ok := by
  refine answersTo_listed _ _ [] _ ?_ ?_ <;> simp [start]

theorem test_meets_LpenterSucceeds : ∃ (s : State) (ds : List RawSample),
    Config.wfFirst ∈ Config.params.wfLegal ∧ s.regs.drv ≠ 0#2 ∧
      answersTo (stepList Config.params (.lpenter Config.wfFirst)) s = ds.map .ok :=
  ⟨_, _, test_wake_selector_legal, by decide, answers_all_ok _⟩

theorem test_meets_LpexitSucceeds : ∃ (s : State) (ds : List RawSample), s.regs.drv ≠ 0#2 ∧
    answersTo (stepList Config.params .lpexit) s = ds.map .ok :=
  ⟨_, _, by decide, answers_all_ok _⟩

theorem test_meets_PowerTransitionBusFailure :
    0 < (stepList Config.params .lpexit).length ∧
      answersTo ((stepList Config.params .lpexit).take 1) (start 1#2 [.fail] [])
        = ([] : List RawSample).map .ok ++ [.fail] := ⟨by simp [stepList, writesOf, Config.params], rfl⟩

theorem test_meets_DrvTransitions :
    isCommand .poll = true ∧ (start 2#2 [] []).regs.drv.toNat ≤ 2 ∧ ∃ t, exec .poll (start 2#2 [] []) = .next t :=
  ⟨rfl, by decide, exec_next _ _⟩

theorem test_meets_DriverAndThrottleAreSeparate :
    (∃ t, exec (.init 0x68#7) State.reset = .next t) ∧ ∃ t, exec (.eval zg) State.reset = .next t :=
  ⟨exec_next _ _, exec_next _ _⟩

/-- INIT: all six transactions answered, and the first failing. -/
theorem test_meets_DriverCommandsAreTheirMicroOps_init (id : Byte) :
    answersTo (stepList Config.params (.init 0x68#7)) (start 0#2 (sixAnswers id) [])
        = (List.replicate 5 (default : RawSample)).map .ok ++ [.ok ⟨id, 0#8, 0#8, 0#8, 0#8, 0#8⟩] ∧
      0 < (stepList Config.params (.init 0x68#7)).length ∧
      answersTo ((stepList Config.params (.init 0x68#7)).take 1) (start 0#2 [.fail] [])
        = ([] : List RawSample).map .ok ++ [.fail] :=
  ⟨answersTo_listed _ _ [] _ (by simp [start, sixAnswers]) rfl, by simp [stepList], rfl⟩

/-- RDACC: the read answered, and failing. -/
theorem test_meets_DriverCommandsAreTheirMicroOps_rdacc :
    (start 1#2 [.ok zg] []).regs.drv ≠ 0#2 ∧
      answersTo (stepList Config.params .rdacc) (start 1#2 [.ok zg] [])
        = ([] : List RawSample).map .ok ++ [.ok zg] ∧
      0 < (stepList Config.params .rdacc).length ∧
      answersTo ((stepList Config.params .rdacc).take 1) (start 1#2 [.fail] [])
        = ([] : List RawSample).map .ok ++ [.fail] := ⟨by decide, rfl, by decide, rfl⟩

/-- LPEXIT and LPENTER: every write answered, and the first failing. -/
theorem test_meets_DriverCommandsAreTheirMicroOps_power (i : Instr) (pairs : List (Byte × Byte))
    (h : stepList Config.params i = writesOf pairs) (hp : 0 < pairs.length) :
    (∃ (s0 : State) (ds : List RawSample) (d : RawSample), s0.regs.drv ≠ 0#2 ∧
        answersTo (stepList Config.params i) s0 = ds.map .ok ++ [.ok d]) ∧
      0 < (stepList Config.params i).length ∧
      answersTo ((stepList Config.params i).take 1) (start 1#2 [.fail] [])
        = ([] : List RawSample).map .ok ++ [.fail] := by
  obtain ⟨p, rest, rfl⟩ := List.exists_cons_of_length_pos hp
  rw [h]
  refine ⟨⟨_, List.replicate rest.length default, default, ?_, (answers_all_ok _).trans ?_⟩, ?_, rfl⟩
  · exact (by decide : (1#2 : BitVec 2) ≠ 0#2)
  · simp [writesOf, ← List.replicate_succ']
  · simp [writesOf]

theorem test_meets_DriverCommandsAreTheirMicroOps_lists :
    (stepList Config.params .lpexit = writesOf Config.params.lpExitSeq ∧ 0 < Config.params.lpExitSeq.length) ∧
      stepList Config.params (.lpenter Config.wfFirst) = writesOf (Config.params.lpEnterSeq Config.wfFirst) ∧
      0 < (Config.params.lpEnterSeq Config.wfFirst).length := by
  simp [stepList, Config.params]

theorem test_meets_BusWriteTransaction :
    busAnswer (.write 1#8 2#8) (start 0#2 [.ok zg] []) = .ok zg ∧
      busAnswer (.write 1#8 2#8) (start 0#2 [.fail] []) = .fail := ⟨rfl, rfl⟩

theorem test_meets_BusReadTransaction :
    busAnswer (.read 1#8 .six) (start 0#2 [.ok zg] []) = .ok zg ∧
      busAnswer (.read 1#8 .one) (start 0#2 [.fail] []) = .fail := ⟨rfl, rfl⟩

/-- Boundary: 49 skips leave room for one more; 50 do not. -/
theorem test_meets_EvalSemantics :
    mag2 (decodeSample zg) (lastAccepted (armed 0#3 49#6 zg State.reset).regs) ≤ 628023312898483455 ∧
      (armed 0#3 49#6 zg State.reset).regs.skip.toNat < 50 ∧ 50 ≤ (armed 0#3 50#6 zg State.reset).regs.skip.toNat ∧
      628023312898483455 < mag2 (decodeSample sampleB) (lastAccepted (armed 0#3 0#6 sampleA State.reset).regs) ∧
      0 < (armed 1#3 0#6 zg State.reset).regs.mand.toNat := by decide

theorem test_meets_PollIsReadThenEval :
    (start 2#2 [.ok zg] []).regs.drv ≠ 0#2 ∧ (start 2#2 [.ok zg] []).regs.subd = 0#1 ∧
      busAnswer (.read Config.params.regAccelBase .six) (start 2#2 [.ok zg] []) = .ok zg := ⟨by decide, rfl, rfl⟩

theorem test_meets_PollBusFailure :
    (start 1#2 [.fail] []).regs.drv ≠ 0#2 ∧
      busAnswer (.read Config.params.regAccelBase .six) (start 1#2 [.fail] []) = .fail := ⟨by decide, rfl⟩

theorem test_meets_NotificationIsSampleEvaluated : ∃ t,
    exec (.eval zg) (armed 1#3 0#6 zg (start 0#2 [] [.ok])) = .next t ∧
      Event.notify zg .ok ∈ t.events.drop (armed 1#3 0#6 zg (start 0#2 [] [.ok])).events.length :=
  ⟨_, rfl, by decide⟩

/-- After SUB and any number of evaluations of the constant sample, last_accepted is zero or that sample. -/
theorem lastAccepted_constant (n : Nat) (s t : State)
    (hs : lastAccepted s.regs = ⟨0, 0, 0⟩ ∨ lastAccepted s.regs = decodeSample zg)
    (h : execAll (List.replicate n (.eval zg)) s = .next t) :
    lastAccepted t.regs = ⟨0, 0, 0⟩ ∨ lastAccepted t.regs = decodeSample zg := by
  induction n generalizing s with
  | zero => cases h; exact hs
  | succ n ih =>
    refine ih (runEval Config.params zg s) ?_ (by simpa [List.replicate_succ, execAll, exec, execEval] using h)
    rcases evaluate_cases Config.params zg 0#48 s with ⟨-, he⟩ | ⟨-, -, he⟩ | ⟨-, -, -, he⟩ | ⟨-, -, -, he⟩ <;>
      simp only [runEval, he]
    · exact hs
    · exact hs
    · exact .inr (by simp [lastAccepted, acceptSample, notify, decodeSample, s16])
    · exact .inr (by simp [lastAccepted, acceptSample, notify, decodeSample, s16])

/-- 57 samples: the five mandatory sends, the 50 skips, the floor, and one more skip. -/
theorem test_meets_BelowThresholdCadence (k : Nat) (hk : k < (List.replicate 57 zg).length) (t : State)
    (h : execAll (.sub :: ((List.replicate 57 zg).take k).map .eval) State.reset = .next t) :
    mag2 (decodeSample (List.replicate 57 zg)[k]) (lastAccepted t.regs) ≤ 628023312898483455 := by
  have h2 : lastAccepted t.regs = ⟨0, 0, 0⟩ ∨ lastAccepted t.regs = decodeSample zg := by
    refine lastAccepted_constant (min k 57) (runSub Config.params State.reset) t (.inl (by decide)) ?_
    rw [List.take_replicate, List.map_replicate] at h
    exact h
  rw [List.getElem_replicate]
  rcases h2 with h2 | h2 <;> rw [h2] <;> decide

theorem test_meets_MotionBurst :
    628023312898483455 < mag2 (decodeSample sampleB) (lastAccepted (armed 0#3 7#6 sampleA State.reset).regs) ∧
      mag2 (decodeSample sampleB) (decodeSample sampleB) ≤ 628023312898483455 := by decide

theorem test_meets_SkippingRepeats :
    mag2 (decodeSample zg) (lastAccepted (armed 0#3 48#6 zg State.reset).regs) ≤ 628023312898483455 ∧
      (armed 0#3 48#6 zg State.reset).regs.skip.toNat ≤ 48 ∧
      (armed 0#3 49#6 zg State.reset).regs.skip.toNat = 49 ∧
      (armed 0#3 50#6 zg State.reset).regs.skip.toNat = 50 := by decide

theorem test_meets_AtMostFiftySkipsInARow :
    (armed 0#3 0#6 zg State.reset).regs.subd = 1#1 ∧ (List.replicate 51 zg).length = 51 := by decide

/-- Two steps with a POLL that fails and a SKIP: the decisions put out without a SEND. -/
theorem test_meets_AtMostFiftySkipsInARow_steps : ∃ t,
    runSteps 2 { armed 0#3 49#6 zg (start 1#2 [.fail] []) with
        inputs := [.present (.command 0x0800000000000000#64), .present (.command 0x0700000000004000#64)] }
      = .next t ∧ t.responses.map responseDecision = [0#4, 2#4] ∧ 3#4 ∉ t.responses.map responseDecision :=
  ⟨_, rfl, by decide, by decide⟩

theorem test_meets_RdregIllegalForms :
    opcode 0x090000000000000B#64 = 0x09#8 ∧ 11 ≤ ((payload 0x090000000000000B#64).extractLsb' 0 4).toNat ∧
      (payload 0x0900000000000014#64).extractLsb' 4 44 ≠ 0#44 ∧ reserved 0x0901000000000000#64 ≠ 0#8 := by decide

theorem test_meets_StepRunsTheDecodedInstruction :
    (fed 0x0500000000000000#64 State.reset).inputs = .present (.command 0x0500000000000000#64) :: [] ∧
      decodeEncoding (.command 0x0500000000000000#64) = .ok .sub ∧ State.reset.inputs = [] := ⟨rfl, rfl, rfl⟩

theorem test_meets_ResetInputs :
    { State.reset with inputs := [.reset] }.inputs = .reset :: [] ∧
      { State.reset with inputs := [.cut 0x0100000000000068#64 2] }.inputs = .cut 0x0100000000000068#64 2 :: [] :=
  ⟨rfl, rfl⟩

theorem test_meets_RefusalsChangeOnlyErr : ∃ t r,
    step (fed 0x0200000000000000#64 State.reset) = .next t ∧
      t.responses = (fed 0x0200000000000000#64 State.reset).responses ++ [r] ∧ 4 ≤ (responseStatus r).toNat :=
  ⟨_, _, rfl, rfl, by decide⟩

theorem test_meets_StepInvariants :
    throttleInv Config.params State.reset.regs ∧ codesInv State.reset.regs ∧ verified Config.params State.reset ∧
      ∃ t, step (fed 0x0500000000000000#64 State.reset) = .next t := by
  refine ⟨?_, ?_, fun h => absurd rfl h, _, rfl⟩
  · simp [throttleInv, State.reset, Regs.reset]
  · simp [codesInv, State.reset, Regs.reset]

/-- Boundary: the largest counters the throttle invariant admits. -/
theorem test_meets_ThrottleBoundsKept :
    throttleInv Config.params (armed 5#3 0#6 zg State.reset).regs ∧
      throttleInv Config.params (armed 0#3 50#6 zg State.reset).regs := by
  constructor <;> simp [throttleInv, armed, Config.params, State.reset, Regs.reset]

/-- A ready driver whose history holds the complete INIT. -/
theorem test_meets_ReadyDriverWasVerified :
    verified Config.params { start 1#2 [] [] with events := initEvents Config.params 0x68#7 } :=
  fun _ => ⟨[], [], by simp [start], by simp⟩

theorem test_meets_CompleteTransactionsKept :
    ∀ e ∈ initEvents Config.params 0x68#7, eventComplete e = true := by
  simp [initEvents, eventComplete, ReadLen.toNat]

theorem test_meets_EvalxyzExpands : ∀ v ∈ [(-32768 : Int), 0, 32767], -32768 ≤ v ∧ v ≤ 32767 := by decide

theorem test_meets_UnsubDisarms :
    (start 1#2 [] []).regs.subd = 0#1 ∧ Instr.poll ≠ .sub ∧ (∀ rn, Instr.poll ≠ .rdreg rn) ∧ ∃ u, exec .poll (start 1#2 [] []) = .next u :=
  ⟨rfl, by decide, by simp, exec_next _ _⟩

theorem test_meets_CrossAndMagnitudeBounds : ∀ v ∈ [(0 : Int), -32768, 32767], -32768 ≤ v ∧ v ≤ 32767 := by decide

theorem test_meets_MagnitudeAlgebra : (2 : Int) ≠ 0 ∧ (2 : Int) * 3 = 1 * 6 := by decide

theorem test_meets_OneGravityIsNeverLarge :
    (16384 : Int) * 16384 + 0 * 0 + 0 * 0 = 16384 * 16384 := by decide

theorem test_meets_InitAgainstReferenceSensor :
    Memory.wf [(0x75, 0x68#8)] ∧ readCell [(0x75, 0x68#8)] tb.regIdentity.toNat = tb.idExpected ∧
      tb.regIdentity ∉ (initWrites tb).map Prod.fst := by decide

/-- The power-mode pair is the last of its register. -/
theorem test_meets_InitAgainstReferenceSensor_last :
    initWrites tb = (initWrites tb).take 4 ++ (0x6B#8, 0x00#8) :: [] ∧
      (0x6B#8 : Byte) ∉ ([] : List (Byte × Byte)).map Prod.fst := by decide

theorem test_meets_PollAgainstReferenceEnvironment :
    let s := armed 1#3 0#6 zg (start 2#2 [] [])
    s.regs.drv ≠ 0#2 ∧ s.regs.devaddr = 0x68#7 ∧ s.regs.subd = 1#1 ∧ 0 < s.regs.mand.toNat ∧
      (0x69#7 : BitVec 7) ≠ 0x68#7 := by decide

/-- A line that lets everything through, and one that lets nothing through. -/
theorem test_meets_WireFraming :
    WireLine.passes (.write 1#8 2#8) ⟨true, true, true, true, true, zg⟩ = true ∧
      WireLine.passes (.read 1#8 .six) ⟨true, true, true, true, true, zg⟩ = true := by
  simp [WireLine.passes]

theorem test_meets_WireFailure :
    WireLine.passes (.write 1#8 2#8) ⟨true, true, true, true, false, zg⟩ = false ∧
      (wireTransaction 0x68#7 (.write 1#8 2#8) ⟨true, true, true, true, false, zg⟩).1
        = [.start, .sent 0xD0#8 true, .sent 1#8 true] ++ .sent 2#8 false :: [.stop] := by decide

end Sys2Proof.Tests
end

section
/-! SUPPORT. The conditions of well-formed parameters as propositions, and this hardware's OPEN parameters against
them (spec/00_scope.md rule R6, spec/70_reset_and_hazards.md rule R237). -/

namespace Sys2Proof

theorem lpLengthOk_iff (l : List (Byte × Byte)) : lpLengthOk l = true ↔ 1 ≤ l.length ∧ l.length ≤ 15 := by
  simp only [lpLengthOk, Bool.and_eq_true, decide_eq_true_eq]

/-- The conditions in the order of R237. -/
theorem Params.wellFormed_iff (P : Params) :
    P.wellFormed = true ↔
      (1 ≤ P.mandMotion ∧ P.mandMotion ≤ P.mandSubscribe ∧ P.mandSubscribe ≤ 7) ∧
      (1 ≤ P.skipCap ∧ P.skipCap ≤ 63) ∧
      P.threshRaw < 2 ^ 64 ∧
      P.regAccelBase.toNat ≤ 250 ∧
      ((∀ wf ∈ P.wfLegal, 1 ≤ (P.lpEnterSeq wf).length ∧ (P.lpEnterSeq wf).length ≤ 15) ∧
        1 ≤ P.lpExitSeq.length ∧ P.lpExitSeq.length ≤ 15) ∧
      P.wfLegal ≠ [] := by
  simp only [Params.wellFormed, Bool.and_eq_true, Bool.not_eq_true', decide_eq_true_eq, List.all_eq_true,
    List.isEmpty_eq_false_iff, lpLengthOk_iff, and_assoc]

/-- The acceleration block of six registers from the base on ends inside the 8-bit address space (R54). -/
theorem Config.params_regAccelBase_toNat_le : Config.params.regAccelBase.toNat ≤ 250 := by
  have hbase : Config.params.regAccelBase.toNat = Config.accelBase.val % 2 ^ 8 := BitVec.toNat_ofNat _ _
  have hlt : Config.accelBase.val < 251 := Config.accelBase.isLt
  omega

theorem Config.params_wfLegal_ne_nil : Config.params.wfLegal ≠ [] := List.cons_ne_nil _ _

/-- R237 asks the low-power lists to be in range for the legal selectors only; this hardware's are for every byte. -/
theorem Config.params_wellFormed : Config.params.wellFormed = true := by
  rw [Params.wellFormed_iff]
  refine ⟨?mandatory, ?skipCap, ?threshold, Config.params_regAccelBase_toNat_le,
    ⟨fun wf _ => Config.params_lpEnterSeq_length wf, Config.params_lpExitSeq_length⟩, Config.params_wfLegal_ne_nil⟩
  case mandatory | skipCap | threshold => simp

/-- Settles O53: well-formedness holds for every assignment of the OPEN parameters, and the parameters that R6 fixes
have its values by definition. -/
theorem parametersAreWellFormed : Obligations.ParametersAreWellFormed :=
  ⟨Config.params_wellFormed, rfl, Config.params_fsG, Config.params_threshRaw, Config.params_mandSubscribe,
    Config.params_mandMotion, Config.params_skipCap⟩

end Sys2Proof
end

section
/-! SUPPORT. What an instruction can do, said once: the bus traffic and the throttle writes as frames of the whole
state, and each command as such a frame ended by one response (spec/10_state.md rule R11, spec/60_exceptions.md
rule R190). -/

namespace Sys2Proof.Machine

/-! ## Frames of the whole state -/

/-- `u` is `s` after bus transactions: SEQ, the pending bus answers and added events apart, nothing differs. -/
def OnlyBus (s u : State) : Prop :=
  ∃ q b es, s.events <+: es ∧ u = { s with regs := { s.regs with seq := q }, busIn := b, events := es }

/-- `u` is `s` after an evaluation, but for its response: the counters, the last accepted sample, the pending
channel answers and added events apart, nothing differs. -/
def OnlyThrottle (s u : State) : Prop :=
  ∃ m k x y z c es, s.events <+: es ∧ u = { s with
    regs := { s.regs with mand := m, skip := k, lax := x, lay := y, laz := z }
    chanIn := c
    events := es }

/-- What `i` does to `s` before it ends: `u` differs in registers listed for `i` other than ERR, and in added
events. -/
structure Works (i : Instr) (s u : State) : Prop where
  listed : changesOnlyListed i s.regs u.regs
  err : u.regs.err = s.regs.err
  inputs : u.inputs = s.inputs
  responses : u.responses = s.responses
  events : s.events <+: u.events

theorem OnlyBus.trans {s u v : State} (h : OnlyBus s u) (h' : OnlyBus u v) : OnlyBus s v := by
  obtain ⟨q, b, es, he, rfl⟩ := h
  obtain ⟨q', b', es', he', rfl⟩ := h'
  exact ⟨q', b', es', he.trans he', rfl⟩

theorem setSeq_onlyBus (q : BitVec 4) (s : State) : OnlyBus s (s.setSeq q) :=
  ⟨q, s.busIn, s.events, List.prefix_rfl, rfl⟩

theorem transact_onlyBus (op : MicroOp) (s : State) : OnlyBus s (transact op s).2 :=
  ⟨_, _, _, List.prefix_append _ _, rfl⟩

theorem writeAll_onlyBus (pairs : List (Byte × Byte)) (s : State) : OnlyBus s (writeAll pairs s).2 := by
  obtain ⟨n, -, h⟩ := writeAll_spec pairs s
  exact ⟨_, _, _, List.prefix_append _ _, h⟩

theorem OnlyThrottle.refl (s : State) : OnlyThrottle s s :=
  ⟨s.regs.mand, s.regs.skip, s.regs.lax, s.regs.lay, s.regs.laz, s.chanIn, s.events, List.prefix_rfl, rfl⟩

theorem skipSample_onlyThrottle (P : Params) (s : State) : OnlyThrottle s (skipSample P s) :=
  ⟨s.regs.mand, _, s.regs.lax, s.regs.lay, s.regs.laz, s.chanIn, s.events, List.prefix_rfl, rfl⟩

theorem notify_acceptSample_onlyThrottle (P : Params) (bytes sample : RawSample) (s : State) :
    OnlyThrottle s (notify bytes (acceptSample P sample s)).2 :=
  ⟨_, _, _, _, _, _, _, List.prefix_append _ _, rfl⟩

/-! ## The commands -/

theorem whenReady_cases (run : State → State) (s : State) :
    whenReady run s = raise .notReady .none 0#48 s ∨ whenReady run s = run s := by
  unfold whenReady
  split
  · exact .inl rfl
  · exact .inr rfl

theorem readBlock_onlyBus (P : Params) (s : State) :
    ∃ u, OnlyBus s u ∧
      ((∃ r, readBlock P s = (some r, u.setSample r.pack)) ∨ readBlock P s = (none, u)) := by
  rcases readBlock_cases P s with ⟨r, -, h⟩ | ⟨-, h⟩
  · exact ⟨_, ⟨1#4, s.busIn.tail, _, List.prefix_append _ _, rfl⟩, .inl ⟨r, h⟩⟩
  · exact ⟨_, ⟨_, _, _, List.prefix_append _ _, rfl⟩, .inr h⟩

/-- INIT ends in one of three ways, after bus traffic at the new address with the driver `UNINIT` (R104 to R106). -/
theorem runInit_cases (P : Params) (addr : BitVec 7) (s : State) :
    ∃ u, OnlyBus ((s.setDevaddr addr).setDrv drvUninit) u ∧
      (runInit P addr s = raise .busError .none 0#48 u ∨
        runInit P addr s = raise .identityMismatch .none 0#48 u ∨
        runInit P addr s = complete .none 0#48 (u.setDrv drvActive)) := by
  rcases hw : writeAll (initWrites P) (((s.setDevaddr addr).setDrv drvUninit).setSeq 0#4) with ⟨ok, s1⟩
  have h1 := (setSeq_onlyBus 0#4 ((s.setDevaddr addr).setDrv drvUninit)).trans (writeAll_onlyBus (initWrites P) _)
  rw [hw] at h1
  cases ok with
  | false => exact ⟨s1, h1, .inl (by simp [runInit, hw])⟩
  | true =>
    have h2 := h1.trans (transact_onlyBus (.read P.regIdentity .one) s1)
    refine ⟨_, h2, ?_⟩
    cases ha : busAnswer (.read P.regIdentity .one) s1 with
    | fail => exact .inl (by simp [runInit, hw, memReadByte_eq, ha])
    | ok d =>
      by_cases hid : d.b0 = P.idExpected
      · exact .inr (.inr (by simp [runInit, hw, memReadByte_eq, ha, hid]))
      · exact .inr (.inl (by simp [runInit, hw, memReadByte_eq, ha, hid]))

theorem powerTransition_cases (pairs : List (Byte × Byte)) (drv : BitVec 2) (s : State) :
    ∃ u, OnlyBus s u ∧
      (powerTransition pairs drv s = complete .none 0#48 (u.setDrv drv) ∨
        powerTransition pairs drv s = raise .busError .none 0#48 u) := by
  rcases hw : writeAll pairs (s.setSeq 0#4) with ⟨ok, u⟩
  have hu := (setSeq_onlyBus 0#4 s).trans (writeAll_onlyBus pairs _)
  rw [hw] at hu
  refine ⟨u, hu, ?_⟩
  cases ok with
  | true => exact .inl (by simp [powerTransition, hw])
  | false => exact .inr (by simp [powerTransition, hw])

/-- An evaluation is throttle writes and at most one notification, ended by a response (R154, R161). -/
theorem evaluate_ends (P : Params) (sample : RawSample) (data : BitVec 48) (s : State) :
    ∃ u, OnlyThrottle s u ∧ ∃ st d, evaluate P sample data s = raise st d data u := by
  rcases evaluate_cases P sample data s with ⟨-, h⟩ | ⟨-, -, h⟩ | ⟨-, -, -, h⟩ | ⟨-, -, -, h⟩
  · exact ⟨s, OnlyThrottle.refl s, _, _, h⟩
  · exact ⟨_, skipSample_onlyThrottle P s, _, _, h⟩
  · exact ⟨_, notify_acceptSample_onlyThrottle P sample sample s, _, _, h⟩
  · exact ⟨_, notify_acceptSample_onlyThrottle P sample sample s, _, _, h⟩

/-! ## The work of a command and its end -/

/-- The command `i` goes from `s` to `t`: its work, ended by one `raise`, with `OK` among the statuses. -/
def Ends (i : Instr) (s t : State) : Prop := ∃ u st d data, Works i s u ∧ t = raise st d data u

theorem Works.ends {i : Instr} {s u : State} (h : Works i s u) (st : Status) (d : Decision) (data : BitVec 48) :
    Ends i s (raise st d data u) :=
  ⟨u, st, d, data, h, rfl⟩

theorem Works.refl (i : Instr) (s : State) : Works i s s :=
  ⟨by cases i <;> rfl, rfl, rfl, rfl, List.prefix_rfl⟩

theorem OnlyBus.works {i : Instr} {s u : State} (h : OnlyBus s u)
    (hi : ∀ q, changesOnlyListed i s.regs { s.regs with seq := q }) : Works i s u := by
  obtain ⟨q, b, es, he, rfl⟩ := h
  exact ⟨hi q, rfl, rfl, rfl, he⟩

theorem whenReady_ends {i : Instr} {run : State → State} {s : State} (h : Ends i s (run s)) :
    Ends i s (whenReady run s) := by
  rcases whenReady_cases run s with hw | hw
  · exact hw ▸ (Works.refl i s).ends _ _ _
  · exact hw ▸ h

theorem runInit_ends (P : Params) (addr : BitVec 7) (s : State) : Ends (.init addr) s (runInit P addr s) := by
  obtain ⟨u, ⟨q, b, es, he, rfl⟩, h | h | h⟩ := runInit_cases P addr s <;> rw [h]
  all_goals
    apply Works.ends
    exact ⟨rfl, rfl, rfl, rfl, he⟩

theorem readAndReport_ends (P : Params) (s : State) : Ends .rdacc s (readAndReport P s) := by
  obtain ⟨u, ⟨q, b, es, he, rfl⟩, ⟨r, h⟩ | h⟩ := readBlock_onlyBus P s <;> simp only [readAndReport, h]
  all_goals
    apply Works.ends
    exact ⟨rfl, rfl, rfl, rfl, he⟩

/-- A power transition writes SEQ and DRV, which R11 lists for both LPENTER and LPEXIT. -/
theorem powerTransition_ends {i : Instr} (pairs : List (Byte × Byte)) (drv : BitVec 2) (s : State)
    (hi : ∀ q d, changesOnlyListed i s.regs { s.regs with seq := q, drv := d }) :
    Ends i s (powerTransition pairs drv s) := by
  obtain ⟨u, ⟨q, b, es, he, rfl⟩, h | h⟩ := powerTransition_cases pairs drv s <;> rw [h]
  · apply Works.ends
    exact ⟨hi q drv, rfl, rfl, rfl, he⟩
  · apply Works.ends
    exact ⟨hi q s.regs.drv, rfl, rfl, rfl, he⟩

theorem runLpenter_ends (P : Params) (wf : Byte) (s : State) : Ends (.lpenter wf) s (runLpenter P wf s) := by
  unfold runLpenter
  split
  · exact whenReady_ends (powerTransition_ends _ _ s fun _ _ => rfl)
  · exact (Works.refl _ s).ends _ _ _

theorem runEval_ends (P : Params) (sample : RawSample) (s : State) :
    Ends (.eval sample) s (runEval P sample s) := by
  obtain ⟨u, ⟨m, k, x, y, z, c, es, he, rfl⟩, st, d, h⟩ := evaluate_ends P sample 0#48 s
  rw [runEval, h]
  apply Works.ends
  exact ⟨rfl, rfl, rfl, rfl, he⟩

theorem readAndEvaluate_ends (P : Params) (s : State) : Ends .poll s (readAndEvaluate P s) := by
  obtain ⟨u, hu, ⟨r, h⟩ | h⟩ := readBlock_onlyBus P s <;> simp only [readAndEvaluate, h]
  · obtain ⟨v, hv, st, d, h'⟩ := evaluate_ends P r r.pack (u.setSample r.pack)
    obtain ⟨q, b, es, he, rfl⟩ := hu
    obtain ⟨m, k, x, y, z, c, es', he', rfl⟩ := hv
    rw [h']
    apply Works.ends
    exact ⟨rfl, rfl, rfl, rfl, he.trans he'⟩
  · have hw : Works .poll s u := hu.works fun _ => rfl
    exact hw.ends _ _ _

theorem runSub_ends (P : Params) (s : State) : Ends .sub s (runSub P s) := by
  apply Works.ends
  exact ⟨rfl, rfl, rfl, rfl, List.prefix_rfl⟩

theorem runUnsub_ends (s : State) : Ends .unsub s (runUnsub s) := by
  apply Works.ends
  exact ⟨rfl, rfl, rfl, rfl, List.prefix_rfl⟩

/-- Every command but RDREG does the work listed for it and ends with one `raise` (R20, R190). -/
theorem exec_command_ends {i : Instr} {s t : State} (hi : isCommand i = true) (hr : ∀ rn, i ≠ .rdreg rn)
    (h : exec i s = .next t) : Ends i s t := by
  cases i with
  | init addr => exact Host.Outcome.next.inj h ▸ runInit_ends Config.params addr s
  | rdacc => exact Host.Outcome.next.inj h ▸ whenReady_ends (readAndReport_ends Config.params s)
  | lpenter wf => exact Host.Outcome.next.inj h ▸ runLpenter_ends Config.params wf s
  | lpexit => exact Host.Outcome.next.inj h ▸ whenReady_ends (powerTransition_ends _ _ s fun _ _ => rfl)
  | sub => exact Host.Outcome.next.inj h ▸ runSub_ends Config.params s
  | unsub => exact Host.Outcome.next.inj h ▸ runUnsub_ends s
  | eval sample => exact Host.Outcome.next.inj h ▸ runEval_ends Config.params sample s
  | poll => exact Host.Outcome.next.inj h ▸ whenReady_ends (readAndEvaluate_ends Config.params s)
  | rdreg rn => exact absurd rfl (hr rn)
  | busWrite reg val => cases hi
  | busRead reg len => cases hi

/-- RDREG only answers (R180, R181). -/
theorem exec_rdreg_cases {rn : BitVec 4} {s t : State} (h : exec (.rdreg rn) s = .next t) :
    ∃ st data, t = respond st .none data s := by
  have h' : execRdreg rn s = .next t := h
  unfold execRdreg at h'
  split at h' <;> exact ⟨_, _, (Host.Outcome.next.inj h').symm⟩

/-- A micro-operation on its own is one transaction; when it fails it raises `BusError` (R45, R46, R190). -/
theorem exec_micro_cases {i : Instr} {s t : State} (hi : isCommand i = false) (h : exec i s = .next t) :
    ∃ u, OnlyBus s u ∧ (t = u ∨ t = raise .busError .none 0#48 u) := by
  cases i with
  | busWrite reg val =>
    refine ⟨_, transact_onlyBus (.write reg val) s, ?_⟩
    have ht := Host.Outcome.next.inj h
    rw [memWrite_eq] at ht
    cases ha : busAnswer (.write reg val) s <;> simp only [ha] at ht
    · exact .inr ht.symm
    · exact .inl ht.symm
  | busRead reg len =>
    refine ⟨_, transact_onlyBus (.read reg len) s, ?_⟩
    have ht := Host.Outcome.next.inj h
    rcases hu : transact (.read reg len) s with ⟨a, u⟩
    cases a <;> simp only [hu] at ht
    · exact .inr ht.symm
    · exact .inl ht.symm
  | _ => cases hi

/-! ## The frame of every instruction -/

/-- R11 lists ERR for every instruction but RDREG, so ending with a status stays inside the list. -/
theorem changesOnlyListed_err {i : Instr} {r r' : Regs} (hr : ∀ rn, i ≠ .rdreg rn) (e : BitVec 4)
    (h : changesOnlyListed i r r') : changesOnlyListed i r { r' with err := e } := by
  cases i with
  | rdreg rn => exact absurd rfl (hr rn)
  | _ => exact congrArg (fun x : Regs => { x with err := e }) h

/-- SEQ is listed for a micro-operation on its own. -/
theorem changesOnlyListed_seq_of_micro {i : Instr} (hi : isCommand i = false) (r : Regs) (q : BitVec 4) :
    changesOnlyListed i r { r with seq := q } := by
  cases i with
  | busWrite reg val => rfl
  | busRead reg len => rfl
  | _ => cases hi

/-- The frame of an instruction: the listed registers, and outputs that only grow. -/
structure Frame (i : Instr) (s t : State) : Prop where
  listed : changesOnlyListed i s.regs t.regs
  inputs : t.inputs = s.inputs
  events : s.events <+: t.events
  responses : s.responses <+: t.responses

theorem Works.frame {i : Instr} {s u : State} (h : Works i s u) : Frame i s u :=
  ⟨h.listed, h.inputs, h.events, h.responses ▸ List.prefix_rfl⟩

theorem Works.raise_frame {i : Instr} {s u : State} (h : Works i s u) (hr : ∀ rn, i ≠ .rdreg rn) (st : Status)
    (d : Decision) (data : BitVec 48) : Frame i s (raise st d data u) :=
  ⟨changesOnlyListed_err hr st.code h.listed, h.inputs, h.events, h.responses ▸ List.prefix_append _ _⟩

theorem exec_frame {i : Instr} {s t : State} (h : exec i s = .next t) : Frame i s t := by
  by_cases hrd : ∃ rn, i = .rdreg rn
  · obtain ⟨rn, rfl⟩ := hrd
    obtain ⟨st, data, rfl⟩ := exec_rdreg_cases h
    exact ⟨rfl, rfl, List.prefix_rfl, List.prefix_append _ _⟩
  have hr : ∀ rn, i ≠ .rdreg rn := fun rn hi => hrd ⟨rn, hi⟩
  cases hi : isCommand i with
  | true =>
    obtain ⟨u, st, d, data, hw, rfl⟩ := exec_command_ends hi hr h
    exact hw.raise_frame hr st d data
  | false =>
    obtain ⟨u, hu, ht⟩ := exec_micro_cases hi h
    have hw : Works i s u := hu.works fun q => changesOnlyListed_seq_of_micro hi s.regs q
    rcases ht with rfl | rfl
    · exact hw.frame
    · exact hw.raise_frame hr _ _ _

/-- Settles O38: the frame of each instruction, from what each command's work and its end can do. -/
theorem commandsChangeOnlyListedRegisters : Obligations.CommandsChangeOnlyListedRegisters := by
  intro i s t h
  obtain ⟨hl, hi, he, hr⟩ := exec_frame h
  exact ⟨hl, hi, he, hr⟩

end Sys2Proof.Machine
end

section
/-! SUPPORT. What a step can do: the decoder's results by opcode, the inputs a step serves, and what becomes of the
registers (spec/10_state.md rules R10, R16, R20, R21; spec/30_encoding.md rules R76, R77; spec/43_host_access.md
rule R181). -/

namespace Sys2Proof.Machine

/-! ## The decoder's results -/

/-- What a word with an opcode other than RDREG's can decode to: another command, or a refusal that writes ERR. -/
def DecodesToRaise (d : Except Reject Instr) : Prop :=
  (∃ i, d = .ok i ∧ isCommand i = true ∧ ∀ rn, i ≠ .rdreg rn) ∨
    d = .error .illegalOperand ∨ d = .error .illegalCommand

theorem accept_decodesToRaise {i : Instr} (b : Bool) (hi : isCommand i = true) (hr : ∀ rn, i ≠ .rdreg rn) :
    DecodesToRaise (accept b .illegalOperand i) := by
  cases b
  · exact .inr (.inl rfl)
  · exact .inl ⟨i, rfl, hi, hr⟩

theorem decode_of_opcode_ne_rdreg {w : BitVec 64} (h : opcode w ≠ 0x09#8) : DecodesToRaise (decode w) := by
  unfold decode
  split_ifs
  case neg => exact .inr (.inr rfl)
  all_goals exact accept_decodesToRaise _ rfl nofun

/-- A word with RDREG's opcode decodes to RDREG or is an illegal form of it (R181). -/
theorem decode_of_opcode_rdreg {w : BitVec 64} (h : opcode w = 0x09#8) :
    (∃ rn, decode w = .ok (.rdreg rn)) ∨ decode w = .error .illegalRdreg := by
  have hd : decode w = accept (reserved w == 0#8 && (payload w).extractLsb' 4 44 == 0#44) .illegalRdreg
      (.rdreg ((payload w).extractLsb' 0 4)) := by
    simp [decode, h]
  rw [hd]
  cases reserved w == 0#8 && (payload w).extractLsb' 4 44 == 0#44
  · exact .inr rfl
  · exact .inl ⟨_, rfl⟩

/-! ## Steps -/

theorem step_present {s : State} {e : Encoding} {rest : List Input} (h : s.inputs = .present e :: rest) :
    step s = serveEncoding e { s with inputs := rest } := by
  simp only [step, h, serve]

theorem serveEncoding_ok {e : Encoding} {i : Instr} (h : decodeEncoding e = .ok i) (s : State) :
    serveEncoding e s = exec i s := by
  simp only [serveEncoding, h]

theorem serveEncoding_error {e : Encoding} {r : Reject} (h : decodeEncoding e = .error r) (s : State) :
    serveEncoding e s = refuse r s := by
  simp only [serveEncoding, h]

/-- Settles O33. -/
theorem stepRunsTheDecodedInstruction : Obligations.StepRunsTheDecodedInstruction := by
  constructor
  · intro s e rest i hin hd
    rw [step_present hin, serveEncoding_ok hd]
  · intro s hin
    simp only [step, hin]

/-! ## The status in ERR and in the response -/

theorem Status.code_toNat_le (st : Status) : st.code.toNat ≤ 6 := by
  cases st <;> decide

@[simp] theorem responseStatus_responseWord (st : Status) (d : Decision) (data : BitVec 48) :
    responseStatus (responseWord st d data) = st.code := by
  apply BitVec.eq_of_getLsbD_eq
  intro i hi
  have hw : (responseWord st d data).getLsbD (60 + i)
      = BitVec.getLsbD (w := 4 + 4 + 8 + 48) (st.code ++ d.code ++ 0#8 ++ data) (60 + i) := rfl
  simp only [responseStatus, BitVec.getLsbD_extractLsb', hw, BitVec.getLsbD_append, hi, decide_true, Bool.true_and]
  rw [if_neg (by omega), if_neg (by omega), if_neg (by omega)]
  congr 1
  omega

/-- `t` is `s` after a command word was served: one response more, whose status ERR holds. -/
def AnsweredInErr (s t : State) : Prop :=
  t.inputs = s.inputs ∧ ∃ st d data, t.responses = s.responses ++ [responseWord st d data] ∧ t.regs.err = st.code

theorem raise_answeredInErr (st : Status) (d : Decision) (data : BitVec 48) (s : State) :
    AnsweredInErr s (raise st d data s) :=
  ⟨rfl, st, d, data, rfl, rfl⟩

theorem Ends.answeredInErr {i : Instr} {s t : State} (h : Ends i s t) : AnsweredInErr s t := by
  obtain ⟨u, st, d, data, hw, rfl⟩ := h
  exact ⟨hw.inputs, st, d, data, by rw [raise_responses, hw.responses], rfl⟩

/-- A command word whose opcode is not RDREG's is answered, and ERR holds the answer's status (R20). -/
theorem serve_other_than_rdreg {w : BitVec 64} (h : opcode w ≠ 0x09#8) (s : State) :
    ∃ t, serveEncoding (.command w) s = .next t ∧ AnsweredInErr s t := by
  rcases decode_of_opcode_ne_rdreg h with ⟨i, hd, hi, hr⟩ | hd | hd
  · obtain ⟨t, ht⟩ := exec_next i s
    exact ⟨t, (serveEncoding_ok (e := .command w) hd s).trans ht, (exec_command_ends hi hr ht).answeredInErr⟩
  · exact ⟨_, serveEncoding_error (e := .command w) hd s, raise_answeredInErr _ _ _ s⟩
  · exact ⟨_, serveEncoding_error (e := .command w) hd s, raise_answeredInErr _ _ _ s⟩

/-- A command word with RDREG's opcode is answered, legal or not, and nothing else happens (R180, R181). -/
theorem serve_rdreg {w : BitVec 64} (h : opcode w = 0x09#8) (s : State) :
    ∃ st data, serveEncoding (.command w) s = .next (respond st .none data s) := by
  rcases decode_of_opcode_rdreg h with ⟨rn, hd⟩ | hd
  · obtain ⟨t, ht⟩ := exec_next (.rdreg rn) s
    obtain ⟨st, data, rfl⟩ := exec_rdreg_cases ht
    exact ⟨st, data, (serveEncoding_ok (e := .command w) hd s).trans ht⟩
  · exact ⟨_, _, serveEncoding_error (e := .command w) hd s⟩

/-- Settles O36: RDREG's opcode only answers; every other word is answered and leaves its status in ERR. -/
theorem oneResponseAndErrHoldsIt : Obligations.OneResponseAndErrHoldsIt := by
  intro s w rest hin
  rw [step_present hin]
  by_cases h : opcode w = 0x09#8
  · obtain ⟨st, data, ht⟩ := serve_rdreg h { s with inputs := rest }
    refine ⟨_, _, ht, rfl, rfl, ?_, ?_, fun _ => rfl⟩
    · simpa using st.code_toNat_le
    · simp [h]
  · obtain ⟨t, ht, hin', st, d, data, hresp, herr⟩ := serve_other_than_rdreg h { s with inputs := rest }
    refine ⟨t, _, ht, hin', hresp, ?_, ?_, fun h' => absurd h' h⟩
    · simpa using st.code_toNat_le
    · simpa [h] using herr

/-! ## What a step does to the registers -/

/-- The registers after a refusal: unchanged, or with a status in ERR (R76, R77, R181). -/
theorem refuse_regs {r : Reject} {s t : State} (h : refuse r s = .next t) :
    t.regs = s.regs ∨ ∃ st : Status, t.regs = { s.regs with err := st.code } := by
  cases r with
  | illegalCommand => exact Host.Outcome.next.inj h ▸ .inr ⟨.illegalCommand, rfl⟩
  | illegalOperand => exact Host.Outcome.next.inj h ▸ .inr ⟨.illegalOperand, rfl⟩
  | illegalRdreg => exact Host.Outcome.next.inj h ▸ .inl rfl
  | malformedTransfer => cases h

/-- A step runs an instruction, refuses what is presented, resets, or does nothing. -/
theorem step_regs {s t : State} (h : step s = .next t) :
    t.regs = s.regs ∨ (∃ st : Status, t.regs = { s.regs with err := st.code }) ∨ t.regs = Regs.reset ∨
      ∃ i s', s'.regs = s.regs ∧ exec i s' = .next t := by
  rcases hin : s.inputs with _ | ⟨e | _ | ⟨w, calls⟩, rest⟩
  · have hs : s = t := by simpa [step, hin] using h
    exact .inl (hs ▸ rfl)
  · rw [step_present hin] at h
    cases hd : decodeEncoding e with
    | ok i =>
      rw [serveEncoding_ok hd] at h
      exact .inr (.inr (.inr ⟨i, { s with inputs := rest }, rfl, h⟩))
    | error r =>
      rw [serveEncoding_error hd] at h
      exact (refuse_regs h).imp_right .inl
  · have hs : coreReset { s with inputs := rest } = t := by simpa [step, hin, serve] using h
    exact .inr (.inr (.inl (hs ▸ rfl)))
  · have hs : serveCut w calls { s with inputs := rest } = .next t := by simpa [step, hin, serve] using h
    unfold serveCut at hs
    split at hs
    · exact .inr (.inr (.inl (Host.Outcome.next.inj hs ▸ rfl)))
    · cases hs
    · cases hs

/-- An invariant of the registers that reset establishes, and that refusals and instructions keep, is kept by every
step. -/
theorem step_keeps {Inv : Regs → Prop} (hreset : Inv Regs.reset)
    (herr : ∀ (r : Regs) (st : Status), Inv r → Inv { r with err := st.code })
    (hexec : ∀ {i s t}, Inv s.regs → exec i s = .next t → Inv t.regs)
    {s t : State} (hs : Inv s.regs) (h : step s = .next t) : Inv t.regs := by
  rcases step_regs h with ht | ⟨st, ht⟩ | ht | ⟨i, s', hs', ht⟩
  · exact ht ▸ hs
  · exact ht ▸ herr _ st hs
  · exact ht ▸ hreset
  · exact hexec (hs' ▸ hs) ht

/-! ## Legal codes -/

/-- An instruction leaves ERR alone or writes a status into it. -/
theorem exec_err {i : Instr} {s t : State} (h : exec i s = .next t) :
    t.regs.err = s.regs.err ∨ ∃ st : Status, t.regs.err = st.code := by
  cases hi : isCommand i with
  | true =>
    by_cases hr : ∃ rn, i = .rdreg rn
    · obtain ⟨rn, rfl⟩ := hr
      obtain ⟨st, data, rfl⟩ := exec_rdreg_cases h
      exact .inl rfl
    · obtain ⟨-, st, d, data, -, herr⟩ := (exec_command_ends hi (fun rn h => hr ⟨rn, h⟩) h).answeredInErr
      exact .inr ⟨st, herr⟩
  | false =>
    obtain ⟨u, ⟨q, b, es, -, rfl⟩, rfl | rfl⟩ := exec_micro_cases hi h
    · exact .inl rfl
    · exact .inr ⟨.busError, rfl⟩

theorem powerTransition_drv (pairs : List (Byte × Byte)) (drv : BitVec 2) (s : State) :
    (powerTransition pairs drv s).regs.drv = s.regs.drv ∨ (powerTransition pairs drv s).regs.drv = drv := by
  obtain ⟨u, ⟨q, b, es, -, rfl⟩, h | h⟩ := powerTransition_cases pairs drv s <;> rw [h]
  · exact .inr rfl
  · exact .inl rfl

theorem whenReady_drv {run : State → State} {s : State} {drv : BitVec 2}
    (h : (run s).regs.drv = s.regs.drv ∨ (run s).regs.drv = drv) :
    (whenReady run s).regs.drv = s.regs.drv ∨ (whenReady run s).regs.drv = drv := by
  rcases whenReady_cases run s with hw | hw <;> rw [hw]
  · exact .inl rfl
  · exact h

theorem runInit_drv (P : Params) (addr : BitVec 7) (s : State) :
    (runInit P addr s).regs.drv = drvUninit ∨ (runInit P addr s).regs.drv = drvActive := by
  obtain ⟨u, ⟨q, b, es, -, rfl⟩, h | h | h⟩ := runInit_cases P addr s <;> rw [h]
  · exact .inl rfl
  · exact .inl rfl
  · exact .inr rfl

theorem runLpenter_drv (P : Params) (wf : Byte) (s : State) :
    (runLpenter P wf s).regs.drv = s.regs.drv ∨ (runLpenter P wf s).regs.drv = drvCycledLp := by
  unfold runLpenter
  split
  · exact whenReady_drv (powerTransition_drv _ _ s)
  · exact .inl rfl

/-- Only INIT, LPENTER and LPEXIT write DRV, and they write a legal code (R21, R114). -/
theorem exec_drv {i : Instr} {s t : State} (h : exec i s = .next t) :
    t.regs.drv = s.regs.drv ∨ t.regs.drv = drvUninit ∨ t.regs.drv = drvActive ∨ t.regs.drv = drvCycledLp := by
  have hl := (exec_frame h).listed
  cases i with
  | init addr => exact Host.Outcome.next.inj h ▸ .inr ((runInit_drv Config.params addr s).imp_right .inl)
  | lpenter wf =>
    exact Host.Outcome.next.inj h ▸ (runLpenter_drv Config.params wf s).imp_right (.inr ∘ .inr)
  | lpexit =>
    exact Host.Outcome.next.inj h ▸ (whenReady_drv (powerTransition_drv _ drvActive s)).imp_right (.inr ∘ .inl)
  | _ => exact .inl ((congrArg Regs.drv hl).trans rfl)

theorem exec_codesInv {i : Instr} {s t : State} (hs : codesInv s.regs) (h : exec i s = .next t) :
    codesInv t.regs := by
  obtain ⟨herr, hdrv⟩ := hs
  constructor
  · rcases exec_err h with ht | ⟨st, ht⟩ <;> rw [ht]
    · exact herr
    · exact st.code_toNat_le
  · rcases exec_drv h with ht | ht | ht | ht <;> rw [ht]
    · exact hdrv
    all_goals decide

theorem codesInv_reset : codesInv Regs.reset := by
  constructor <;> decide

/-- Settles O42. -/
theorem legalCodesKept : Obligations.LegalCodesKept := fun _ _ =>
  step_keeps codesInv_reset (fun _ st ⟨_, hdrv⟩ => ⟨st.code_toNat_le, hdrv⟩) exec_codesInv

/-! ## The throttle counters -/

/-- What can become of MAND and SKIP: nothing; a count of skipped samples up to the cap with nothing mandatory; or
SKIP cleared and MAND within its bound or not raised (R151, R157 to R160). -/
def CountersMove (r r' : Regs) : Prop :=
  (r'.mand = r.mand ∧ r'.skip = r.skip) ∨
    (r'.mand = 0#3 ∧ r'.skip.toNat ≤ 50) ∨
    (r'.mand.toNat ≤ max r.mand.toNat 5 ∧ r'.skip = 0#6)

theorem raisedMand_le (P : Params) (sample : RawSample) (r : Regs) :
    raisedMand P sample r ≤ max r.mand.toNat P.mandMotion := by
  unfold raisedMand
  split
  · exact le_rfl
  · exact le_max_left _ _

/-- A sample is skipped only when no send is mandatory (R158). -/
theorem mand_eq_zero_of_not_send {P : Params} {sample : RawSample} {r : Regs}
    (h : sendDecision P sample r = false) : r.mand = 0#3 := by
  simp only [sendDecision, Bool.or_eq_false_iff, decide_eq_false_iff_not] at h
  obtain ⟨⟨hmand, hlarge⟩, -⟩ := h
  have hraised : raisedMand P sample r = r.mand.toNat := by simp [raisedMand, hlarge]
  have hzero : r.mand.toNat = 0 := by omega
  exact BitVec.eq_of_toNat_eq hzero

theorem skipSample_counters {sample : RawSample} {s : State}
    (h : sendDecision Config.params sample s.regs = false) :
    CountersMove s.regs (skipSample Config.params s).regs := by
  have hmand := mand_eq_zero_of_not_send h
  exact .inr (.inl ⟨hmand, (Nat.mod_le _ _).trans (min_le_right _ _)⟩)

theorem acceptSample_counters (sample : RawSample) (s : State) :
    CountersMove s.regs (acceptSample Config.params sample s).regs := by
  have hraised := raisedMand_le Config.params sample s.regs
  rw [Config.params_mandMotion] at hraised
  refine .inr (.inr ⟨?_, rfl⟩)
  exact (Nat.mod_le _ _).trans (by omega)

theorem evaluate_counters (sample : RawSample) (data : BitVec 48) (s : State) :
    CountersMove s.regs (evaluate Config.params sample data s).regs := by
  rcases evaluate_cases Config.params sample data s with ⟨-, h⟩ | ⟨-, hs, h⟩ | ⟨-, -, -, h⟩ | ⟨-, -, -, h⟩ <;> rw [h]
  · exact .inl ⟨rfl, rfl⟩
  · exact skipSample_counters hs
  · exact acceptSample_counters sample s
  · exact acceptSample_counters sample s

theorem readAndEvaluate_counters (s : State) : CountersMove s.regs (readAndEvaluate Config.params s).regs := by
  obtain ⟨u, ⟨q, b, es, -, rfl⟩, ⟨r, h⟩ | h⟩ := readBlock_onlyBus Config.params s <;> simp only [readAndEvaluate, h]
  · exact evaluate_counters r r.pack (State.setSample r.pack _)
  · exact .inl ⟨rfl, rfl⟩

/-- SUB, EVAL and POLL alone write the counters, within `CountersMove`. -/
theorem exec_counters {i : Instr} {s t : State} (h : exec i s = .next t) : CountersMove s.regs t.regs := by
  have hl := (exec_frame h).listed
  cases i with
  | sub => exact Host.Outcome.next.inj h ▸ .inr (.inr ⟨le_max_right _ _, rfl⟩)
  | eval sample => exact Host.Outcome.next.inj h ▸ evaluate_counters sample 0#48 s
  | poll =>
    have ht : whenReady (readAndEvaluate Config.params) s = t := Host.Outcome.next.inj h
    rcases whenReady_cases (readAndEvaluate Config.params) s with hw | hw <;> rw [← ht, hw]
    · exact .inl ⟨rfl, rfl⟩
    · exact readAndEvaluate_counters s
  | _ => exact .inl ⟨(congrArg Regs.mand hl).trans rfl, (congrArg Regs.skip hl).trans rfl⟩

/-- The bounds of R16 alone. -/
def CountersBounded (r : Regs) : Prop := r.mand.toNat ≤ 5 ∧ r.skip.toNat ≤ 50

theorem CountersMove.bounded {r r' : Regs} (hm : CountersMove r r') (h : CountersBounded r) :
    CountersBounded r' := by
  obtain ⟨hmand, hskip⟩ := h
  rcases hm with ⟨hm, hk⟩ | ⟨hm, hk⟩ | ⟨hm, hk⟩
  · exact ⟨hm ▸ hmand, hk ▸ hskip⟩
  · exact ⟨by simp [hm], hk⟩
  · exact ⟨by omega, by simp [hk]⟩

theorem throttleInv_params_iff (r : Regs) :
    throttleInv Config.params r ↔ CountersBounded r ∧ (0 < r.skip.toNat → r.mand = 0#3) := by
  simp only [throttleInv, CountersBounded, Config.params_mandSubscribe, Config.params_skipCap, and_assoc]

theorem CountersMove.throttleInv {r r' : Regs} (hm : CountersMove r r') (h : throttleInv Config.params r) :
    throttleInv Config.params r' := by
  rw [throttleInv_params_iff] at h ⊢
  obtain ⟨hb, hskipping⟩ := h
  refine ⟨hm.bounded hb, fun hpos => ?_⟩
  rcases hm with ⟨hm, hk⟩ | ⟨hm, -⟩ | ⟨-, hk⟩
  · exact hm ▸ hskipping (hk ▸ hpos)
  · exact hm
  · simp [hk] at hpos

theorem countersBounded_reset : CountersBounded Regs.reset := by
  constructor <;> decide

theorem throttleInv_reset : throttleInv Config.params Regs.reset :=
  (throttleInv_params_iff _).2 ⟨countersBounded_reset, fun _ => rfl⟩

/-- Settles O41: each instruction moves the counters in a way that keeps the bounds and the stronger invariant. -/
theorem throttleBoundsKept : Obligations.ThrottleBoundsKept := by
  refine ⟨countersBounded_reset, fun s t hmand hskip => ?_, fun s t => ?_⟩
  · exact step_keeps countersBounded_reset (fun _ _ hr => hr) (fun hs h => (exec_counters h).bounded hs)
      ⟨hmand, hskip⟩
  · exact step_keeps throttleInv_reset (fun _ _ hr => hr) (fun hs h => (exec_counters h).throttleInv hs)

/-- Settles O45: the driver is `UNINIT` and the history empty. -/
theorem invariantsHoldAtReset : Obligations.InvariantsHoldAtReset :=
  ⟨throttleInv_reset, codesInv_reset, fun hready => absurd rfl hready, fun _ he => absurd he List.not_mem_nil⟩

end Sys2Proof.Machine
end

section
/-! SUPPORT. The two bus micro-operations run on their own, and the calls a step makes: its bus transactions and
notifications, with the answers they use up (spec/20_memory.md rules R43, R45, R46, R51, R52, R56;
spec/70_reset_and_hazards.md rule R227). -/

namespace Sys2Proof.Machine

/-! ## The micro-operations on their own -/

/-- A micro-operation run on its own is one transaction; a failure is raised (R45, R46; log entry 4). -/
theorem exec_microInstr (op : MicroOp) (s : State) :
    exec (microInstr op) s = .next
      (match busAnswer op s with
        | .ok _ => (transact op s).2
        | .fail => raise .busError .none 0#48 (transact op s).2) := by
  cases op with
  | write reg val =>
    simp only [microInstr, exec, execBusWrite, memWrite_eq]
    cases busAnswer (.write reg val) s <;> rfl
  | read reg len =>
    rw [← transact_answer]
    simp only [microInstr, exec, execBusRead]
    rcases transact (.read reg len) s with ⟨_ | _, _⟩ <;> rfl

theorem exec_microInstr_of_ok {op : MicroOp} {s : State} {d : RawSample} (h : busAnswer op s = .ok d) :
    exec (microInstr op) s = .next { s with
      regs := { s.regs with seq := s.regs.seq + 1#4 }
      busIn := s.busIn.tail
      events := s.events ++ [.bus s.regs.devaddr op (busResult op (.ok d))] } := by
  simp only [exec_microInstr, h, transact, seqAfter]

theorem exec_microInstr_of_fail {op : MicroOp} {s : State} (h : busAnswer op s = .fail) :
    exec (microInstr op) s = .next { s with
      regs := { s.regs with err := 1#4 }
      busIn := s.busIn.tail
      events := s.events ++ [.bus s.regs.devaddr op .fail]
      responses := s.responses ++ [0x1000000000000000#64] } := by
  simp only [exec_microInstr, h, transact, seqAfter, busResult]
  rfl

/-- Settles O18. -/
theorem busWriteTransaction : Obligations.BusWriteTransaction := fun reg val _ =>
  ⟨fun _ h => exec_microInstr_of_ok (op := .write reg val) h, exec_microInstr_of_fail (op := .write reg val)⟩

/-- Settles O19: the bytes delivered are the first of the answer's six, as many as were asked for. -/
theorem busReadTransaction : Obligations.BusReadTransaction := fun reg len _ =>
  ⟨fun d h => ⟨d.bytes.take len.toNat, by cases len <;> rfl, exec_microInstr_of_ok (op := .read reg len) h⟩,
    exec_microInstr_of_fail (op := .read reg len)⟩

/-! ## Calls -/

/-- `t` is `s` after at most `k` bus transactions and then at most `m` notifications: each added an event and used up
one listed answer, and a successful transaction delivered the bytes asked for. -/
def Calls (k m : Nat) (s t : State) : Prop :=
  ∃ bs ns, t.events = s.events ++ bs ++ ns ∧ bs.length ≤ k ∧ ns.length ≤ m ∧
    t.busIn = s.busIn.drop bs.length ∧ t.chanIn = s.chanIn.drop ns.length ∧
    (∀ e ∈ bs, isBusEvent e = true ∧ eventComplete e = true) ∧ ∀ e ∈ ns, isBusEvent e = false

theorem Calls.silent {s t : State} (he : t.events = s.events) (hb : t.busIn = s.busIn) (hc : t.chanIn = s.chanIn) :
    Calls 0 0 s t :=
  ⟨[], [], by simpa using he, le_rfl, le_rfl, hb, hc, by simp, by simp⟩

theorem Calls.mono {k k' m m' : Nat} {s t : State} (h : Calls k m s t) (hk : k ≤ k') (hm : m ≤ m') :
    Calls k' m' s t := by
  obtain ⟨bs, ns, he, hbs, hns, hrest⟩ := h
  exact ⟨bs, ns, he, hbs.trans hk, hns.trans hm, hrest⟩

/-- Calls may follow transactions. -/
theorem Calls.trans {k k' m : Nat} {s u t : State} (h : Calls k 0 s u) (h' : Calls k' m u t) :
    Calls (k + k') m s t := by
  obtain ⟨bs, ns, he, hbs, hns, hb, hc, hbus, -⟩ := h
  obtain ⟨bs', ns', he', hbs', hns', hb', hc', hbus', hn'⟩ := h'
  obtain rfl : ns = [] := List.eq_nil_of_length_eq_zero (Nat.le_zero.1 hns)
  refine ⟨bs ++ bs', ns', by simp [he', he], by simp; omega, hns', by simp [hb', hb],
    by simpa [hc] using hc', fun e hmem => ?_, hn'⟩
  exact (List.mem_append.1 hmem).elim (hbus e) (hbus' e)

/-- What leaves the history and the pending answers alone may follow any calls. -/
theorem Calls.then_silent {k m : Nat} {s u t : State} (h : Calls k m s u) (he : t.events = u.events)
    (hb : t.busIn = u.busIn) (hc : t.chanIn = u.chanIn) : Calls k m s t := by
  simpa only [Calls, he, hb, hc] using h

theorem Calls.raise {k m : Nat} {s u : State} (h : Calls k m s u) (st : Status) (d : Decision) (data : BitVec 48) :
    Calls k m s (raise st d data u) :=
  h.then_silent rfl rfl rfl

theorem busEvent_complete (addr : BitVec 7) (op : MicroOp) (a : BusAnswer) :
    eventComplete (.bus addr op (busResult op a)) = true := by
  cases a with
  | fail => cases op <;> rfl
  | ok d =>
    cases op with
    | write reg val => rfl
    | read reg len => cases len <;> rfl

theorem transact_calls (op : MicroOp) (s : State) : Calls 1 0 s (transact op s).2 :=
  ⟨[.bus s.regs.devaddr op (busResult op (busAnswer op s))], [], by simp, le_rfl, le_rfl, by simp, rfl,
    by simpa using ⟨rfl, busEvent_complete _ _ _⟩, by simp⟩

theorem notify_calls (bytes : RawSample) (s : State) : Calls 0 1 s (notify bytes s).2 :=
  ⟨[], [.notify bytes (chanAnswer bytes s)], by simp, le_rfl, le_rfl, rfl, by simp, by simp, by simp [isBusEvent]⟩

theorem writeAll_calls (pairs : List (Byte × Byte)) (s : State) : Calls pairs.length 0 s (writeAll pairs s).2 := by
  induction pairs generalizing s with
  | nil => exact Calls.silent rfl rfl rfl
  | cons p rest ih =>
    have hp := transact_calls (.write p.1 p.2) s
    rw [List.length_cons, Nat.add_comm]
    cases ha : busAnswer (.write p.1 p.2) s with
    | ok d => simpa only [writeAll, memWrite_eq, ha] using hp.trans (ih _)
    | fail => simpa only [writeAll, memWrite_eq, ha] using hp.mono (Nat.le_add_right 1 _) le_rfl

/-! ## The calls of each command -/

theorem whenReady_calls {run : State → State} {s : State} {k m : Nat} (h : Calls k m s (run s)) :
    Calls k m s (whenReady run s) := by
  rcases whenReady_cases run s with hw | hw <;> rw [hw]
  · exact ((Calls.silent rfl rfl rfl).raise _ _ _).mono (Nat.zero_le k) (Nat.zero_le m)
  · exact h

/-- INIT makes five writes and one read (R104). -/
theorem runInit_calls (P : Params) (addr : BitVec 7) (s : State) : Calls 6 0 s (runInit P addr s) := by
  have hset : Calls 0 0 s (((s.setDevaddr addr).setDrv drvUninit).setSeq 0#4) := Calls.silent rfl rfl rfl
  have hwrites := hset.trans (writeAll_calls (initWrites P) _)
  rcases hw : writeAll (initWrites P) (((s.setDevaddr addr).setDrv drvUninit).setSeq 0#4) with ⟨_ | _, u⟩ <;>
    rw [hw] at hwrites
  · simpa only [runInit, hw] using (hwrites.mono (Nat.le_succ 5) le_rfl).raise .busError .none 0#48
  · have hread : Calls 6 0 s (transact (.read P.regIdentity .one) u).2 := hwrites.trans (transact_calls _ u)
    simp only [runInit, hw, memReadByte_eq]
    cases busAnswer (.read P.regIdentity .one) u with
    | fail => exact hread.raise _ _ _
    | ok d =>
      dsimp only
      split
      · exact hread.then_silent rfl rfl rfl
      · exact hread.raise _ _ _

theorem powerTransition_calls (pairs : List (Byte × Byte)) (drv : BitVec 2) (s : State) :
    Calls pairs.length 0 s (powerTransition pairs drv s) := by
  have hset : Calls 0 0 s (s.setSeq 0#4) := Calls.silent rfl rfl rfl
  have hwrites : Calls pairs.length 0 s (writeAll pairs (s.setSeq 0#4)).2 := by
    simpa using hset.trans (writeAll_calls pairs _)
  unfold powerTransition
  rcases hw : writeAll pairs (s.setSeq 0#4) with ⟨_ | _, u⟩ <;> rw [hw] at hwrites
  · exact hwrites.raise _ _ _
  · exact hwrites.then_silent rfl rfl rfl

theorem readBlock_calls (P : Params) (s : State) : Calls 1 0 s (readBlock P s).2 := by
  have hread : Calls 1 0 s (transact (.read P.regAccelBase .six) (s.setSeq 0#4)).2 :=
    (Calls.silent rfl rfl rfl).trans (transact_calls _ (s.setSeq 0#4))
  simp only [readBlock, memReadSample_eq]
  cases busAnswer (.read P.regAccelBase .six) (s.setSeq 0#4) with
  | ok d => exact hread.then_silent rfl rfl rfl
  | fail => exact hread

theorem readAndReport_calls (P : Params) (s : State) : Calls 1 0 s (readAndReport P s) := by
  have hread := readBlock_calls P s
  unfold readAndReport
  rcases hb : readBlock P s with ⟨_ | r, u⟩ <;> rw [hb] at hread <;> exact hread.raise _ _ _

theorem evaluate_calls (P : Params) (sample : RawSample) (data : BitVec 48) (s : State) :
    Calls 0 1 s (evaluate P sample data s) := by
  have hnone : ∀ u : State, u.events = s.events → u.busIn = s.busIn → u.chanIn = s.chanIn → Calls 0 1 s u :=
    fun u he hb hc => (Calls.silent he hb hc).mono le_rfl (Nat.zero_le 1)
  have hsend : Calls 0 1 s (notify sample (acceptSample P sample s)).2 :=
    (Calls.silent rfl rfl rfl).trans (notify_calls sample (acceptSample P sample s))
  rcases evaluate_cases P sample data s with ⟨-, h⟩ | ⟨-, -, h⟩ | ⟨-, -, -, h⟩ | ⟨-, -, -, h⟩ <;> rw [h]
  · exact hnone _ rfl rfl rfl
  · exact hnone _ rfl rfl rfl
  · exact hsend.raise _ _ _
  · exact hsend.raise _ _ _

/-- POLL reads, then evaluates (R165). -/
theorem readAndEvaluate_calls (P : Params) (s : State) : Calls 1 1 s (readAndEvaluate P s) := by
  have hread := readBlock_calls P s
  unfold readAndEvaluate
  rcases hb : readBlock P s with ⟨_ | r, u⟩ <;> rw [hb] at hread
  · exact (hread.raise _ _ _).mono le_rfl (Nat.zero_le 1)
  · exact hread.trans (evaluate_calls P r r.pack u)

theorem exec_microInstr_calls {op : MicroOp} {s t : State} (h : exec (microInstr op) s = .next t) :
    Calls 1 0 s t := by
  rw [exec_microInstr] at h
  have hcall := transact_calls op s
  refine Host.Outcome.next.inj h ▸ ?_
  cases busAnswer op s with
  | ok d => exact hcall
  | fail => exact hcall.raise _ _ _

/-- No instruction makes more calls than a low-power list of 15 writes, or than one notification (R56, R227). -/
theorem exec_calls {i : Instr} {s t : State} (h : exec i s = .next t) : Calls 15 1 s t := by
  have hnone : ∀ {u : State}, Calls 0 0 s u → Calls 15 1 s u := fun h => h.mono (Nat.zero_le 15) (Nat.zero_le 1)
  have hpower : ∀ {pairs : List (Byte × Byte)} {drv : BitVec 2}, pairs.length ≤ 15 →
      Calls 15 1 s (whenReady (powerTransition pairs drv) s) :=
    fun hp => whenReady_calls ((powerTransition_calls _ _ s).mono hp (Nat.zero_le 1))
  cases i with
  | init addr => exact Host.Outcome.next.inj h ▸ (runInit_calls Config.params addr s).mono (by decide) (by decide)
  | rdacc =>
    have ht : whenReady (readAndReport Config.params) s = t := Host.Outcome.next.inj h
    exact ht ▸ (whenReady_calls (readAndReport_calls Config.params s)).mono (by decide) (by decide)
  | lpenter wf =>
    rw [← Host.Outcome.next.inj h, runLpenter]
    split
    · exact hpower (Config.params_lpEnterSeq_length wf).2
    · exact hnone (Calls.silent rfl rfl rfl)
  | lpexit => exact Host.Outcome.next.inj h ▸ hpower Config.params_lpExitSeq_length.2
  | sub => exact Host.Outcome.next.inj h ▸ hnone (Calls.silent rfl rfl rfl)
  | unsub => exact Host.Outcome.next.inj h ▸ hnone (Calls.silent rfl rfl rfl)
  | eval sample =>
    have ht : evaluate Config.params sample 0#48 s = t := Host.Outcome.next.inj h
    exact ht ▸ (evaluate_calls Config.params sample 0#48 s).mono (by decide) le_rfl
  | poll =>
    have ht : whenReady (readAndEvaluate Config.params) s = t := Host.Outcome.next.inj h
    exact ht ▸ (whenReady_calls (readAndEvaluate_calls Config.params s)).mono (by decide) le_rfl
  | rdreg rn =>
    obtain ⟨st, data, rfl⟩ := exec_rdreg_cases h
    exact hnone (Calls.silent rfl rfl rfl)
  | busWrite reg val => exact (exec_microInstr_calls (op := .write reg val) h).mono (by decide) (by decide)
  | busRead reg len => exact (exec_microInstr_calls (op := .read reg len) h).mono (by decide) (by decide)

/-! ## What serving an encoding and a step can do -/

/-- At most one response is given. -/
theorem exec_responses {i : Instr} {s t : State} (h : exec i s = .next t) :
    ∃ rs, t.responses = s.responses ++ rs ∧ rs.length ≤ 1 := by
  cases hi : isCommand i with
  | true =>
    by_cases hr : ∃ rn, i = .rdreg rn
    · obtain ⟨rn, rfl⟩ := hr
      obtain ⟨st, data, rfl⟩ := exec_rdreg_cases h
      exact ⟨_, rfl, le_rfl⟩
    · obtain ⟨-, st, d, data, hresp, -⟩ := (exec_command_ends hi (fun rn h => hr ⟨rn, h⟩) h).answeredInErr
      exact ⟨_, hresp, le_rfl⟩
  | false =>
    obtain ⟨u, ⟨q, b, es, -, rfl⟩, rfl | rfl⟩ := exec_micro_cases hi h
    · exact ⟨[], (List.append_nil _).symm, Nat.zero_le 1⟩
    · exact ⟨_, rfl, le_rfl⟩

/-- `t` is `s` after an encoding was served: calls, then at most one response. -/
structure Served (s t : State) : Prop where
  calls : Calls 15 1 s t
  inputs : t.inputs = s.inputs
  responses : ∃ rs, t.responses = s.responses ++ rs ∧ rs.length ≤ 1

theorem refuse_served {r : Reject} {s t : State} (h : refuse r s = .next t) : Served s t := by
  have hnone : ∀ u : State, u.events = s.events → u.busIn = s.busIn → u.chanIn = s.chanIn → Calls 15 1 s u :=
    fun u he hb hc => (Calls.silent he hb hc).mono (Nat.zero_le 15) (Nat.zero_le 1)
  cases r with
  | malformedTransfer => cases h
  | _ => exact Host.Outcome.next.inj h ▸ ⟨hnone _ rfl rfl rfl, rfl, _, rfl, le_rfl⟩

theorem serveEncoding_served {e : Encoding} {s t : State} (h : serveEncoding e s = .next t) : Served s t := by
  cases hd : decodeEncoding e with
  | ok i =>
    rw [serveEncoding_ok hd] at h
    exact ⟨exec_calls h, (exec_frame h).inputs, exec_responses h⟩
  | error r => exact refuse_served (serveEncoding_error hd s ▸ h)

/-- A step does nothing without an input; else it takes the next input and serves an encoding, resets, or abandons
the command it began (R10, R221). -/
theorem step_cases {s t : State} (h : step s = .next t) :
    (s.inputs = [] ∧ t = s) ∨ ∃ x rest, s.inputs = x :: rest ∧
      (Served { s with inputs := rest } t ∨ t = coreReset { s with inputs := rest } ∨
        ∃ calls done, Served { s with inputs := rest } done ∧ t = abandon calls { s with inputs := rest } done) := by
  rcases hin : s.inputs with _ | ⟨x, rest⟩
  · have hs : s = t := by simpa [step, hin] using h
    exact .inl ⟨rfl, hs.symm⟩
  have hx : serve x { s with inputs := rest } = .next t := by simpa only [step, hin] using h
  refine .inr ⟨x, rest, rfl, ?_⟩
  cases x with
  | present e => exact .inl (serveEncoding_served hx)
  | reset => exact .inr (.inl (Host.Outcome.next.inj hx).symm)
  | cut w calls =>
    simp only [serve, serveCut] at hx
    split at hx
    · rename_i done hdone
      exact .inr (.inr ⟨calls, done, serveEncoding_served hdone, (Host.Outcome.next.inj hx).symm⟩)
    · cases hx
    · cases hx

/-- Settles O39. -/
theorem callsAreBoundedAndOrdered : Obligations.CallsAreBoundedAndOrdered := by
  intro s w rest hin
  obtain ⟨t, -, ht, -⟩ := oneResponseAndErrHoldsIt s w rest hin
  obtain ⟨bs, ns, he, hbs, hns, -, -, hbus, hn⟩ := (serveEncoding_served (step_present hin ▸ ht)).calls
  exact ⟨t, bs, ns, ht, he, fun e hmem => (hbus e hmem).1, hn, hbs, hns⟩

/-! ## The history -/

/-- `t` is `s` with events added, one listed answer used up for each of them. -/
def HistoryGrows (s t : State) : Prop :=
  ∃ es, t.events = s.events ++ es ∧ t.busIn = s.busIn.drop (es.filter isBusEvent).length ∧
    t.chanIn = s.chanIn.drop (es.filter (fun e => !isBusEvent e)).length

theorem Calls.historyGrows {k m : Nat} {s t : State} (h : Calls k m s t) : HistoryGrows s t := by
  obtain ⟨bs, ns, he, -, -, hb, hc, hbus, hn⟩ := h
  have hfilter : (bs ++ ns).filter isBusEvent = bs := by
    rw [List.filter_append, List.filter_eq_self.2 fun e hmem => (hbus e hmem).1,
      List.filter_eq_nil_iff.2 fun e hmem => by simp [hn e hmem], List.append_nil]
  have hfilter' : (bs ++ ns).filter (fun e => !isBusEvent e) = ns := by
    rw [List.filter_append, List.filter_eq_nil_iff.2 fun e hmem => by simp [(hbus e hmem).1],
      List.filter_eq_self.2 fun e hmem => by simp [hn e hmem], List.nil_append]
  exact ⟨bs ++ ns, by simp [he], by rw [hb, hfilter], by rw [hc, hfilter']⟩

/-- An abandoned command adds the calls that were answered (R221). -/
theorem abandon_historyGrows (calls : Nat) (s done : State) : HistoryGrows s (abandon calls s done) :=
  ⟨(done.events.drop s.events.length).take calls, rfl,
    congrArg s.busIn.drop List.countP_eq_length_filter, congrArg s.chanIn.drop List.countP_eq_length_filter⟩

/-- Settles O40. -/
theorem historyOnlyGrows : Obligations.HistoryOnlyGrows := by
  intro s t h
  rcases step_cases h with ⟨hin, rfl⟩ | ⟨x, rest, hin, hserved | rfl | ⟨calls, done, -, rfl⟩⟩
  · exact ⟨by simp [hin], [], [], by simp⟩
  · obtain ⟨rs, hresp, hrs⟩ := hserved.responses
    obtain ⟨es, he, hb, hc⟩ := hserved.calls.historyGrows
    exact ⟨by simp [hserved.inputs, hin], es, rs, he, hresp, hrs, hb, hc⟩
  · exact ⟨by simp [hin], [], [], by simp⟩
  · obtain ⟨es, he, hb, hc⟩ := abandon_historyGrows calls { s with inputs := rest } done
    exact ⟨by simp [abandon, hin], es, [], he, (List.append_nil _).symm, Nat.zero_le 1, hb, hc⟩

/-- Every transaction of the history answered `ok` is complete (R51). -/
def HistoryComplete (s : State) : Prop := ∀ e ∈ s.events, eventComplete e = true

theorem eventComplete_of_not_bus {e : Event} (h : isBusEvent e = false) : eventComplete e = true := by
  cases e with
  | bus addr op result => cases h
  | notify bytes answer => rfl

theorem Calls.historyComplete {k m : Nat} {s t : State} (h : Calls k m s t) (hs : HistoryComplete s) :
    HistoryComplete t := by
  obtain ⟨bs, ns, he, -, -, -, -, hbus, hn⟩ := h
  intro e hmem
  rw [he, List.mem_append, List.mem_append] at hmem
  rcases hmem with (hmem | hmem) | hmem
  · exact hs e hmem
  · exact (hbus e hmem).2
  · exact eventComplete_of_not_bus (hn e hmem)

theorem abandon_historyComplete {calls : Nat} {s done : State} (hs : HistoryComplete s)
    (hdone : HistoryComplete done) : HistoryComplete (abandon calls s done) := by
  intro e hmem
  rcases List.mem_append.1 hmem with hmem | hmem
  · exact hs e hmem
  · exact hdone e (List.mem_of_mem_drop (List.mem_of_mem_take hmem))

/-- Settles O44. -/
theorem completeTransactionsKept : Obligations.CompleteTransactionsKept := by
  intro s t hs h
  rcases step_cases h with ⟨-, rfl⟩ | ⟨x, rest, -, hserved | rfl | ⟨calls, done, hserved, rfl⟩⟩
  · exact hs
  · exact hserved.calls.historyComplete hs
  · exact hs
  · exact abandon_historyComplete hs (hserved.calls.historyComplete hs)

end Sys2Proof.Machine
end

section
/-! SUPPORT. The wire view of a transaction: the sequences of BUS.WRITE and BUS.READ, and the ways they fail
(spec/20_memory.md rules R47 to R50). -/

namespace Sys2Proof.Machine

/-! ## Bytes on the wire -/

/-- The address stands in bits [7:1], the read/write flag in bit 0 (R48). -/
theorem wireAddress_toNat (addr : BitVec 7) (rw : BitVec 1) :
    (wireAddress addr rw).toNat = 2 * addr.toNat + rw.toNat := by
  have happ : (wireAddress addr rw).toNat = addr.toNat <<< 1 ||| rw.toNat := BitVec.toNat_append addr rw
  rw [happ, ← Nat.shiftLeft_add_eq_or_of_lt rw.isLt, Nat.shiftLeft_eq]
  omega

theorem wireBits_wireAddress (addr : BitVec 7) (rw : BitVec 1) :
    wireBits (wireAddress addr rw) = [6, 5, 4, 3, 2, 1, 0].map addr.getLsbD ++ [rw.getLsbD 0] := by
  have happ : ∀ k, (wireAddress addr rw).getLsbD k = if k < 1 then rw.getLsbD k else addr.getLsbD (k - 1) :=
    fun k => BitVec.getLsbD_append
  simp [wireBits, List.range_succ, happ]

/-- Of the bytes of a read all are acknowledged but the last (R50). -/
theorem wireData_concat (bs : List Byte) (b : Byte) :
    wireData (bs ++ [b]) = bs.map (fun c => .received c true) ++ [.received b false] := by
  induction bs with
  | nil => rfl
  | cons c rest ih =>
    have hcons : wireData (c :: (rest ++ [b])) = .received c true :: wireData (rest ++ [b]) := by
      cases rest <;> rfl
    rw [List.cons_append, hcons, ih]
    rfl

/-! ## Transactions that pass -/

theorem wireWrite_of_passes {addr : BitVec 7} {reg val : Byte} {l : WireLine}
    (h : l.passes (.write reg val) = true) :
    wireTransaction addr (.write reg val) l =
      ([.start, .sent (wireAddress addr 0#1) true, .sent reg true, .sent val true, .stop], .ok l.data) := by
  simp only [WireLine.passes, Bool.and_eq_true, and_true] at h
  obtain ⟨⟨⟨hfree, haddr⟩, hreg⟩, hval⟩ := h
  simp [wireTransaction, wireWrite, wireSend, hfree, haddr, hreg, hval]

theorem wireRead_of_passes {addr : BitVec 7} {reg : Byte} {len : ReadLen} {l : WireLine}
    (h : l.passes (.read reg len) = true) :
    wireTransaction addr (.read reg len) l =
      ([.start, .sent (wireAddress addr 0#1) true, .sent reg true] ++ wireTurn
        ++ [.sent (wireAddress addr 1#1) true] ++ wireData (l.data.bytes.take len.toNat) ++ [.stop],
        .ok l.data) := by
  simp only [WireLine.passes, Bool.and_eq_true] at h
  obtain ⟨⟨⟨⟨hfree, haddr⟩, hreg⟩, hthird⟩, hagain⟩ := h
  simp [wireTransaction, wireRead, wireReadBytes, wireSend, hfree, haddr, hreg, hthird, hagain]

/-- A first byte sent is seen with the acknowledge it meets, whatever follows. -/
theorem wireSend_begins {b : Byte} {acked ok : Bool} {rest : List (Byte × Bool)} {w : List WireItem}
    (h : wireSend ((b, acked) :: rest) = (w, ok)) : ∃ more, w = .sent b acked :: more := by
  cases acked <;> exact ⟨_, (congrArg Prod.fst h).symm⟩

/-- A transaction finds the bus busy, or begins with START and the address byte (R48). -/
theorem wireTransaction_begins (addr : BitVec 7) (op : MicroOp) (l : WireLine) :
    (l.free = false ∧ (wireTransaction addr op l).1 = [.busy]) ∨
      (l.free = true ∧ ∃ rest,
        (wireTransaction addr op l).1 = .start :: .sent (wireAddress addr 0#1) l.ackAddr :: rest) := by
  cases hfree : l.free with
  | false => exact .inl ⟨rfl, by cases op <;> simp [wireTransaction, wireWrite, wireRead, hfree]⟩
  | true =>
    refine .inr ⟨rfl, ?_⟩
    cases op with
    | write reg val =>
      simp only [wireTransaction, wireWrite, hfree, if_true]
      split
      all_goals
        rename_i w hw
        obtain ⟨more, rfl⟩ := wireSend_begins hw
        exact ⟨_, rfl⟩
    | read reg len =>
      simp only [wireTransaction, wireRead, hfree, if_true]
      split
      all_goals
        rename_i w hw
        obtain ⟨more, rfl⟩ := wireSend_begins hw
      · split <;> exact ⟨_, rfl⟩
      · exact ⟨_, rfl⟩

/-- Settles O55. -/
theorem wireFraming : Obligations.WireFraming := by
  refine ⟨fun addr rw => ⟨wireAddress_toNat addr rw, wireBits_wireAddress addr rw⟩, wireTransaction_begins,
    fun _ _ _ _ h => wireWrite_of_passes h, fun _ _ len _ h => ?_, wireData_concat⟩
  rw [wireRead_of_passes h]
  cases len <;> rfl

/-! ## A byte that is not acknowledged -/

/-- No byte sent went without its acknowledge. -/
def NoNack (w : List WireItem) : Prop := ∀ b, WireItem.sent b false ∉ w

/-- A byte sent that is not acknowledged is followed by STOP alone, and the transport answers `fail`. -/
def NackFails (p : List WireItem × BusAnswer) : Prop :=
  ∀ b before after, p.1 = before ++ .sent b false :: after → after = [.stop] ∧ p.2 = .fail

@[simp] theorem noNack_nil : NoNack [] := fun _ => List.not_mem_nil

@[simp] theorem noNack_cons (x : WireItem) (w : List WireItem) :
    NoNack (x :: w) ↔ (∀ b, .sent b false ≠ x) ∧ NoNack w := by
  simp only [NoNack, List.mem_cons, not_or, forall_and, ne_eq]

@[simp] theorem noNack_append (u w : List WireItem) : NoNack (u ++ w) ↔ NoNack u ∧ NoNack w := by
  simp only [NoNack, List.mem_append, not_or, forall_and]

@[simp] theorem noNack_wireTurn : NoNack wireTurn := by
  unfold wireTurn
  split <;> simp

@[simp] theorem noNack_wireData (bytes : List Byte) : NoNack (wireData bytes) := by
  rcases List.eq_nil_or_concat bytes with rfl | ⟨bs, b, rfl⟩
  · simp [wireData]
  · simp [NoNack, List.concat_eq_append, wireData_concat]

theorem NoNack.nackFails {w : List WireItem} (h : NoNack w) (a : BusAnswer) : NackFails (w, a) := by
  intro b before after heq
  exact absurd (by simp [show w = _ from heq]) (h b)

theorem nackFails_nack_stop (b : Byte) : NackFails ([.sent b false, .stop], .fail) := by
  intro c before after heq
  rcases before with _ | ⟨x, before⟩
  · obtain ⟨-, hafter⟩ : b = c ∧ [.stop] = after := by simpa using heq
    exact ⟨hafter.symm, rfl⟩
  · have hmem : WireItem.sent c false ∈ [WireItem.stop] := by
      simp [show [WireItem.stop] = before ++ _ from (List.cons.inj heq).2]
    simp at hmem

/-- Items without a missing acknowledge may come before. -/
theorem NoNack.append_nackFails {u w : List WireItem} {a : BusAnswer} (hu : NoNack u) (hw : NackFails (w, a)) :
    NackFails (u ++ w, a) := by
  induction u with
  | nil => exact hw
  | cons x u ih =>
    obtain ⟨hx, hu⟩ := (noNack_cons x u).1 hu
    intro b before after heq
    rcases before with _ | ⟨y, before⟩
    · exact absurd (List.cons.inj heq).1.symm (hx b)
    · exact ih hu b before after (List.cons.inj heq).2

/-- Bytes sent are all acknowledged, or the last one seen is the first that is not. -/
theorem wireSend_cases (bytes : List (Byte × Bool)) :
    (∃ w, wireSend bytes = (w, true) ∧ NoNack w) ∨
      ∃ w b, wireSend bytes = (w ++ [.sent b false], false) ∧ NoNack w := by
  induction bytes with
  | nil => exact .inl ⟨[], rfl, by simp⟩
  | cons p rest ih =>
    obtain ⟨b, _ | _⟩ := p
    · exact .inr ⟨[], b, rfl, by simp⟩
    · rcases ih with ⟨w, hw, hn⟩ | ⟨w, c, hw, hn⟩
      · exact .inl ⟨.sent b true :: w, by simp [wireSend, hw], by simpa using hn⟩
      · exact .inr ⟨.sent b true :: w, c, by simp [wireSend, hw], by simpa using hn⟩

/-- START and bytes sent up to a missing acknowledge, then STOP. -/
theorem nackFails_cut {u w : List WireItem} {b : Byte} (hu : NoNack u) (hw : NoNack w) :
    NackFails (u ++ (w ++ [.sent b false]) ++ [.stop], .fail) := by
  simpa using hu.append_nackFails (hw.append_nackFails (nackFails_nack_stop b))

theorem wireWrite_nackFails (addr : BitVec 7) (reg val : Byte) (l : WireLine) :
    NackFails (wireWrite addr reg val l) := by
  unfold wireWrite
  split
  · rcases wireSend_cases [(wireAddress addr 0#1, l.ackAddr), (reg, l.ackReg), (val, l.ackThird)] with
      ⟨w, hw, hn⟩ | ⟨w, b, hw, hn⟩ <;> rw [hw]
    · exact NoNack.nackFails (by simp [hn]) _
    · exact nackFails_cut (by simp) hn
  · exact NoNack.nackFails (by simp) _

theorem wireReadBytes_nackFails (addr : BitVec 7) (len : ReadLen) (l : WireLine) :
    NackFails (wireReadBytes addr len l) := by
  unfold wireReadBytes
  rcases wireSend_cases [(wireAddress addr 1#1, l.ackThird)] with ⟨w, hw, hn⟩ | ⟨w, b, hw, hn⟩ <;> rw [hw]
  · exact NoNack.nackFails (by simp [hn]) _
  · exact nackFails_cut (u := []) noNack_nil hn

theorem wireRead_nackFails (addr : BitVec 7) (reg : Byte) (len : ReadLen) (l : WireLine) :
    NackFails (wireRead addr reg len l) := by
  unfold wireRead
  split
  · rcases wireSend_cases [(wireAddress addr 0#1, l.ackAddr), (reg, l.ackReg)] with
      ⟨w, hw, hn⟩ | ⟨w, b, hw, hn⟩ <;> rw [hw]
    · dsimp only
      split
      · exact NoNack.append_nackFails (by simp [hn]) (wireReadBytes_nackFails addr len l)
      · exact NoNack.nackFails (by simp [hn]) _
    · exact nackFails_cut (by simp) hn
  · exact NoNack.nackFails (by simp) _

theorem wireTransaction_nackFails (addr : BitVec 7) (op : MicroOp) (l : WireLine) :
    NackFails (wireTransaction addr op l) := by
  cases op with
  | write reg val => exact wireWrite_nackFails addr reg val l
  | read reg len => exact wireRead_nackFails addr reg len l

/-! ## Transactions that fail -/

/-- The sequence of a BUS.WRITE that fails, by the first thing that goes wrong (R49). -/
theorem wireWrite_of_not_passes {addr : BitVec 7} {reg val : Byte} {l : WireLine}
    (h : l.passes (.write reg val) = false) :
    (wireTransaction addr (.write reg val) l).1 =
      if l.free = false then [.busy]
      else if l.ackAddr = false then [.start, .sent (wireAddress addr 0#1) false, .stop]
      else if l.ackReg = false then [.start, .sent (wireAddress addr 0#1) true, .sent reg false, .stop]
      else [.start, .sent (wireAddress addr 0#1) true, .sent reg true, .sent val false, .stop] := by
  simp only [WireLine.passes, Bool.and_true] at h
  cases hfree : l.free with
  | false => simp [wireTransaction, wireWrite, hfree]
  | true =>
    cases haddr : l.ackAddr with
    | false => simp [wireTransaction, wireWrite, wireSend, hfree, haddr]
    | true =>
      cases hreg : l.ackReg with
      | false => simp [wireTransaction, wireWrite, wireSend, hfree, haddr, hreg]
      | true =>
        have hval : l.ackThird = false := by simpa [hfree, haddr, hreg] using h
        simp [wireTransaction, wireWrite, wireSend, hfree, haddr, hreg, hval]

theorem busResult_eq_fail (op : MicroOp) (a : BusAnswer) : busResult op a = .fail ↔ a = .fail := by
  cases a with
  | fail => simp [busResult]
  | ok d => cases op <;> simp [busResult]

/-- A line that lets everything through, or nothing, so that the transport answers `a`. -/
def lineAnswering (a : BusAnswer) : WireLine :=
  match a with
  | .fail => { (default : WireLine) with free := false }
  | .ok d => ⟨true, true, true, true, true, d⟩

theorem wireTransaction_lineAnswering (addr : BitVec 7) (op : MicroOp) (a : BusAnswer) :
    (wireTransaction addr op (lineAnswering a)).2 = a := by
  rw [wireTransaction_answer]
  cases a with
  | fail => simp [lineAnswering, WireLine.passes]
  | ok d => cases op <;> simp [lineAnswering, WireLine.passes]

theorem wireOf_lineAnswering (addr : BitVec 7) (op : MicroOp) (a : BusAnswer) :
    wireOf (.bus addr op (busResult op a)) (lineAnswering a)
      = some (wireTransaction addr op (lineAnswering a)).1 :=
  if_pos (congrArg (busResult op) (wireTransaction_lineAnswering addr op a))

/-- A failed transaction is shown by each of the lines that fail: the core can tell no cause from another (R47). -/
theorem wireOf_fail_isSome (addr : BitVec 7) (op : MicroOp) (l : WireLine) :
    (wireOf (.bus addr op .fail) l).isSome = true ↔ l.passes op = false := by
  simp only [wireOf, busResult_eq_fail, wireTransaction_answer]
  cases l.passes op <;> simp

/-- Settles O56. -/
theorem wireFailure : Obligations.WireFailure :=
  ⟨wireTransaction_answer, wireTransaction_nackFails, fun _ _ _ _ h => wireWrite_of_not_passes h,
    fun addr op a => ⟨_, _, wireOf_lineAnswering addr op a⟩, wireOf_fail_isSome⟩

end Sys2Proof.Machine
end

section
/-! SUPPORT. Commands against the reference sensor and the reference channel: what the sensor answers and holds, and
what INIT and POLL then do, for every parameter assignment (spec/20_memory.md rule R62; spec/40_driver.md rules R104,
R105; spec/42_throttle.md rules R161, R165). -/

namespace Sys2Proof.Machine

/-! ## The sensor's registers -/

/-- The sensor's registers after a list of writes. -/
def storePairs (m : Memory) (pairs : List (Byte × Byte)) : Memory :=
  match pairs with
  | [] => m
  | (reg, val) :: rest => storePairs (writeCell m reg.toNat val) rest

theorem storePairs_wf {m : Memory} (h : Memory.wf m) (pairs : List (Byte × Byte)) :
    Memory.wf (storePairs m pairs) := by
  induction pairs generalizing m with
  | nil => exact h
  | cons p rest ih => exact ih (writeCell_wf _ _ _ h)

/-- A register that no write names is as before. -/
theorem readCell_storePairs_other {reg : Byte} {pairs : List (Byte × Byte)} (h : reg ∉ pairs.map Prod.fst)
    (m : Memory) : readCell (storePairs m pairs) reg.toNat = readCell m reg.toNat := by
  induction pairs generalizing m with
  | nil => rfl
  | cons p rest ih =>
    obtain ⟨hp, hrest⟩ : reg ≠ p.1 ∧ reg ∉ rest.map Prod.fst := by
      simpa only [List.map_cons, List.mem_cons, not_or] using h
    rw [storePairs, ih hrest, readCell_writeCell_other _ _ _ _ (mt BitVec.eq_of_toNat_eq hp)]

theorem storePairs_append (m : Memory) (pairs more : List (Byte × Byte)) :
    storePairs m (pairs ++ more) = storePairs (storePairs m pairs) more := by
  induction pairs generalizing m with
  | nil => rfl
  | cons p rest ih => exact ih _

/-- A register holds the last value written to it. -/
theorem readCell_storePairs_last {m : Memory} (hm : Memory.wf m) (before : List (Byte × Byte)) {reg : Byte}
    (val : Byte) {after : List (Byte × Byte)} (h : reg ∉ after.map Prod.fst) :
    readCell (storePairs m (before ++ (reg, val) :: after)) reg.toNat = val := by
  rw [storePairs_append, storePairs, readCell_storePairs_other h,
    readCell_writeCell_same _ _ _ (storePairs_wf hm before)]

/-- The block read after a sample was stored is the sample. -/
theorem RefSensor.block_store {m : Memory} (h : Memory.wf m) (a : Nat) (r : RawSample) :
    RefSensor.block (RefSensor.store m a r) a = r := by
  have h0 := writeCell_wf m a r.b0 h
  have h1 := writeCell_wf _ (a + 1) r.b1 h0
  have h2 := writeCell_wf _ (a + 2) r.b2 h1
  have h3 := writeCell_wf _ (a + 3) r.b3 h2
  have h4 := writeCell_wf _ (a + 4) r.b4 h3
  simp [RefSensor.block, RefSensor.store, readCell_writeCell_other, readCell_writeCell_same _ _ _ h,
    readCell_writeCell_same _ _ _ h0, readCell_writeCell_same _ _ _ h1, readCell_writeCell_same _ _ _ h2,
    readCell_writeCell_same _ _ _ h3, readCell_writeCell_same _ _ _ h4]

/-! ## The sensor's answers -/

theorem RefSensor.prepare_addr (P : Params) (op : MicroOp) (r : RefSensor) : (r.prepare P op).addr = r.addr := by
  unfold RefSensor.prepare
  split
  · split <;> rfl
  · rfl

theorem RefSensor.prepare_failAt (P : Params) (op : MicroOp) (r : RefSensor) :
    (r.prepare P op).failAt = r.failAt := by
  unfold RefSensor.prepare
  split
  · split <;> rfl
  · rfl

/-- The transaction made to fail, and every transaction at another bus address, is answered `fail`. -/
theorem RefSensor.answer_of_fail {P : Params} {addr : BitVec 7} {r : RefSensor}
    (h : r.failAt = some 0 ∨ addr ≠ r.addr) (op : MicroOp) : (r.answer P addr op).1 = .fail := by
  simp only [RefSensor.answer, RefSensor.prepare_failAt, RefSensor.prepare_addr, if_pos h]

theorem RefSensor.script_of_fail {P : Params} {addr : BitVec 7} {r : RefSensor}
    (h : r.failAt = some 0 ∨ addr ≠ r.addr) (op : MicroOp) (rest : List MicroOp) :
    RefSensor.script P addr (op :: rest) r = ([.fail], (r.answer P addr op).2) := by
  have ha := RefSensor.answer_of_fail (P := P) h op
  rcases hr : r.answer P addr op with ⟨a, r'⟩
  obtain rfl : a = .fail := by simpa [hr] using ha
  simp only [RefSensor.script, hr]

theorem RefSensor.answer_write_elsewhere {P : Params} {addr : BitVec 7} {r : RefSensor} (hfail : r.failAt = none)
    (haddr : addr ≠ r.addr) (reg val : Byte) : r.answer P addr (.write reg val) = (.fail, r) := by
  cases r
  simp_all [RefSensor.answer, RefSensor.prepare]

theorem RefSensor.answer_write {P : Params} {r : RefSensor} (hfail : r.failAt = none) (reg val : Byte) :
    r.answer P r.addr (.write reg val) = (.ok default, { r with dev := writeCell r.dev reg.toNat val }) := by
  cases r
  simp_all [RefSensor.answer, RefSensor.prepare]

theorem RefSensor.answer_readByte {P : Params} {r : RefSensor} (hfail : r.failAt = none) (reg : Byte) :
    r.answer P r.addr (.read reg .one) = (.ok (RefSensor.block r.dev reg.toNat), r) := by
  cases r
  simp_all [RefSensor.answer, RefSensor.prepare]

/-- A read of the acceleration block stores and delivers the harness's next sample. -/
theorem RefSensor.answer_readBlock {P : Params} {r : RefSensor} {x : RawSample} {xs : List RawSample}
    (hfail : r.failAt = none) (hwf : Memory.wf r.dev) (hx : r.samples = x :: xs) :
    r.answer P r.addr (.read P.regAccelBase .six) =
      (.ok x, { r with dev := RefSensor.store r.dev P.regAccelBase.toNat x, samples := xs }) := by
  have hblock := RefSensor.block_store hwf P.regAccelBase.toNat x
  cases r
  simp_all [RefSensor.answer, RefSensor.prepare]

/-- Writes at the sensor's address are all answered `ok` and stored. -/
theorem RefSensor.script_writes {P : Params} {r : RefSensor} (hfail : r.failAt = none) (pairs : List (Byte × Byte))
    (ops : List MicroOp) :
    RefSensor.script P r.addr (writesOf pairs ++ ops) r =
      (List.replicate pairs.length (.ok default)
          ++ (RefSensor.script P r.addr ops { r with dev := storePairs r.dev pairs }).1,
        (RefSensor.script P r.addr ops { r with dev := storePairs r.dev pairs }).2) := by
  induction pairs generalizing r with
  | nil => rfl
  | cons p rest ih =>
    have hrest := ih (r := { r with dev := writeCell r.dev p.1.toNat p.2 }) hfail
    simp only [writesOf, List.map_cons, List.cons_append, RefSensor.script, RefSensor.answer_write hfail] at hrest ⊢
    rw [hrest]
    rfl

/-! ## INIT -/

/-- What the sensor answers to INIT at its own address. -/
theorem RefSensor.script_init {P : Params} {r : RefSensor} (hfail : r.failAt = none) :
    RefSensor.script P r.addr (stepList P (.init r.addr)) r =
      (List.replicate 5 (.ok default)
          ++ [.ok (RefSensor.block (storePairs r.dev (initWrites P)) P.regIdentity.toNat)],
        { r with dev := storePairs r.dev (initWrites P) }) := by
  have hread := RefSensor.answer_readByte (P := P) (r := { r with dev := storePairs r.dev (initWrites P) }) hfail
    P.regIdentity
  rw [stepList, RefSensor.script_writes hfail]
  simp only [RefSensor.script, hread]
  rfl

/-- INIT whose six transactions are answered `ok`, with the expected identity byte (R104). -/
theorem runInit_of_ok {P : Params} {addr : BitVec 7} {s : State} {ds : List RawSample} {d : RawSample}
    (hlen : ds.length = 5) (hd : d.b0 = P.idExpected) (hin : s.busIn = ds.map .ok ++ [.ok d]) :
    (runInit P addr s).regs = { s.regs with devaddr := addr, drv := 1#2, seq := 6#4, err := 0#4 } ∧
      (runInit P addr s).busIn = [] := by
  have hanswers : answersTo (writesOf (initWrites P)) (((s.setDevaddr addr).setDrv drvUninit).setSeq 0#4)
      = ds.map .ok := answersTo_listed _ _ [.ok d] _ hin (by simp [hlen, writesOf, initWrites])
  have hw := writeAll_ok (initWrites P) ds _ hanswers
  have hwrites : (initWrites P).length = 5 := rfl
  have hdrop : s.busIn.drop 5 = [.ok d] := by simp [hin, hlen]
  simp [runInit, hw, hwrites, hdrop, memReadByte_eq, busAnswer, transact, seqAfter, hd, drvActive]

/-- INIT whose first transaction is answered `fail` (R105). -/
theorem runInit_of_first_fail {P : Params} {addr : BitVec 7} {s : State} (hin : s.busIn = [.fail]) :
    (runInit P addr s).regs = { s.regs with devaddr := addr, drv := 0#2, seq := 0#4, err := 1#4 } ∧
      (runInit P addr s).busIn = [] := by
  simp [runInit, initWrites, writeAll, memWrite_eq, busAnswer, hin, transact, seqAfter, drvUninit, Status.code]

/-- Settles O57. -/
theorem initAgainstReferenceSensor : Obligations.InitAgainstReferenceSensor := by
  intro P r s addr hfail hwf hid hnot
  by_cases haddr : addr = r.addr
  · subst haddr
    have hid' : (RefSensor.block (storePairs r.dev (initWrites P)) P.regIdentity.toNat).b0 = P.idExpected :=
      (readCell_storePairs_other hnot r.dev).trans hid
    obtain ⟨hregs, hbus⟩ := runInit_of_ok (P := P) (addr := r.addr) (ds := List.replicate 5 default)
      (s := { s with busIn := List.replicate 5 (.ok default) ++ [.ok _] }) rfl hid' rfl
    have hlast : ∀ (before after : List (Byte × Byte)) (reg val : Byte),
        initWrites P = before ++ (reg, val) :: after → reg ∉ after.map Prod.fst →
          readCell (storePairs r.dev (initWrites P)) reg.toNat = val :=
      fun before after reg val heq hreg => heq ▸ readCell_storePairs_last hwf before val hreg
    refine ⟨_, _, RefSensor.script_init hfail, _, rfl, hbus, storePairs_wf hwf _, ?_⟩
    rw [if_pos rfl, hregs]
    exact ⟨rfl, rfl, rfl, hlast ((initWrites P).take 4) [] P.regPwrMode _ rfl (by simp), hlast⟩
  · have hanswer := RefSensor.answer_write_elsewhere (P := P) hfail haddr P.regSignalPathReset P.valSignalPathReset
    obtain ⟨hregs, hbus⟩ := runInit_of_first_fail (P := P) (addr := addr) (s := { s with busIn := [.fail] }) rfl
    refine ⟨_, r, (RefSensor.script_of_fail (.inr haddr) _ _).trans ?_, _, rfl, hbus, hwf, ?_⟩
    · exact congrArg (fun p => ([BusAnswer.fail], p.2)) hanswer
    · rw [if_neg haddr, hregs]
      exact ⟨rfl, rfl, rfl, rfl⟩

/-! ## POLL -/

/-- What the sensor before a run answers to POLL at its own address. -/
theorem RefSensor.script_poll (P : Params) (addr : BitVec 7) (x : RawSample) (xs : List RawSample) :
    RefSensor.script P addr (stepList P .poll) (RefSensor.initial P addr (x :: xs) none) =
      ([.ok x], { RefSensor.initial P addr xs none with
        dev := RefSensor.store (RefSensor.initialDev P) P.regAccelBase.toNat x }) := by
  have hread : RefSensor.answer P addr (.read P.regAccelBase .six) (RefSensor.initial P addr (x :: xs) none) = _ :=
    RefSensor.answer_readBlock rfl (RefSensor.initialDev_wf P) rfl
  simp only [stepList, RefSensor.script, hread]
  rfl

/-- The fields of a response word do not overlap (R74). -/
theorem responseWord_eq_or (st : Status) (d : Decision) (data : BitVec 48) :
    responseWord st d data = responseWord st d 0#48 ||| data.setWidth 64 := by
  apply BitVec.eq_of_getLsbD_eq
  intro i hi
  have hbit : ∀ v : BitVec 48, (responseWord st d v).getLsbD i
      = BitVec.getLsbD (w := 4 + 4 + 8 + 48) (st.code ++ d.code ++ 0#8 ++ v) i := fun _ => rfl
  simp only [BitVec.getLsbD_or, hbit, BitVec.getLsbD_append, BitVec.getLsbD_setWidth]
  split
  · simp [hi]
  · simp [BitVec.getLsbD_of_ge data i (by omega)]

/-- A send is due while MAND is above zero (R158). -/
theorem sendDecision_of_mand {P : Params} {sample : RawSample} {r : Regs} (h : 0 < r.mand.toNat) :
    sendDecision P sample r = true := by
  cases hs : sendDecision P sample r with
  | true => rfl
  | false => simp [mand_eq_zero_of_not_send hs] at h

/-- After a send `last_accepted` is the sample sent (R160). -/
theorem lastAccepted_acceptSample (P : Params) (sample : RawSample) (s : State) :
    lastAccepted (acceptSample P sample s).regs = decodeSample sample := by
  simp [lastAccepted, acceptSample, decodeSample, s16]

/-- The status of a send: what the channel answered (R160, R161). -/
def sendStatus (a : ChanAnswer) : Status :=
  match a with
  | .ok => .ok
  | .fail => .channelError

/-- An evaluation with a send due writes the throttle registers, notifies, and reports the channel's answer. -/
theorem evaluate_of_due {P : Params} {sample : RawSample} {data : BitVec 48} {s : State} (hsubd : s.regs.subd = 1#1)
    (hmand : 0 < s.regs.mand.toNat) :
    evaluate P sample data s =
      raise (sendStatus (chanAnswer sample s)) .send data (notify sample (acceptSample P sample s)).2 := by
  have hsend := sendDecision_of_mand (P := P) (sample := sample) hmand
  rcases evaluate_cases P sample data s with ⟨h0, -⟩ | ⟨-, hskip, -⟩ | ⟨-, -, ha, h⟩ | ⟨-, -, ha, h⟩
  · simp [hsubd] at h0
  · simp [hsend] at hskip
  · rw [h, ha]
    rfl
  · rw [h, ha]
    rfl

/-- The state after a burst read answered `ok` (R107). -/
theorem readBlock_of_ok {P : Params} {s : State} {x : RawSample}
    (h : busAnswer (.read P.regAccelBase .six) s = .ok x) :
    ∃ u, readBlock P s = (some x, u) ∧ u.regs = { s.regs with sample := x.pack, seq := 1#4 } ∧
      u.busIn = s.busIn.tail ∧ u.chanIn = s.chanIn ∧ u.responses = s.responses ∧
      u.events = s.events ++ [.bus s.regs.devaddr (.read P.regAccelBase .six) (.ok x.bytes)] := by
  rcases readBlock_cases P s with ⟨r, hr, hblock⟩ | ⟨hr, -⟩ <;> rw [h] at hr <;> cases hr
  exact ⟨_, hblock, rfl, rfl, rfl, rfl, rfl⟩

/-- POLL when the driver is ready, the sensor answers `x`, the channel answers `a`, and a send is due (R165). -/
theorem runPoll_of_due {P : Params} {s : State} {x : RawSample} {a : ChanAnswer} (hready : s.regs.drv ≠ 0#2)
    (hsubd : s.regs.subd = 1#1) (hmand : 0 < s.regs.mand.toNat) (hbus : s.busIn = [.ok x]) (hchan : s.chanIn = [a]) :
    ∃ u, runPoll P s = raise (sendStatus a) .send x.pack u ∧ u.busIn = [] ∧ u.chanIn = [] ∧
      u.regs.sample = x.pack ∧ lastAccepted u.regs = decodeSample x ∧ u.responses = s.responses ∧
      u.events = s.events ++ [.bus s.regs.devaddr (.read P.regAccelBase .six) (.ok x.bytes), .notify x a] := by
  have hrun : runPoll P s = readAndEvaluate P s := if_neg hready
  obtain ⟨v, hread, hregs, hvbus, hvchan, hresp, hevents⟩ :=
    readBlock_of_ok (busAnswer_cons hbus (.read P.regAccelBase .six))
  have hanswer : chanAnswer x v = a := chanAnswer_cons (hvchan.trans hchan) x
  have hsent : chanAnswer x (acceptSample P x v) = a := chanAnswer_cons (hvchan.trans hchan) x
  have heval : evaluate P x x.pack v = raise (sendStatus (chanAnswer x v)) .send x.pack _ :=
    evaluate_of_due (by simpa [hregs] using hsubd) (by simpa [hregs] using hmand)
  refine ⟨(notify x (acceptSample P x v)).2, ?_, ?_, ?_, ?_, lastAccepted_acceptSample P x v, ?_, ?_⟩
  · rw [hrun, readAndEvaluate, hread, ← hanswer]
    exact heval
  · simp [acceptSample, hvbus, hbus]
  · simp [acceptSample, hvchan, hchan]
  · simp [acceptSample, hregs]
  · simp [acceptSample, hresp]
  · rw [notify_events, hsent]
    simp [acceptSample, hevents]

/-- Settles O58: with a send due, POLL sends what it read and reports the channel's flag. -/
theorem pollAgainstReferenceEnvironment : Obligations.PollAgainstReferenceEnvironment := by
  intro P addr x xs c s
  refine ⟨⟨RefSensor.initialDev_wf P, RefSensor.readCell_initialDev P⟩, fun hready haddr hsubd hmand => ?_,
    congrArg Prod.fst (RefSensor.script_of_fail (.inl rfl) _ []), fun other hother =>
    congrArg Prod.fst (RefSensor.script_of_fail (.inr hother) _ [])⟩
  obtain ⟨u, hrun, hbus, hchan, hsample, hlast, hresp, hevents⟩ := runPoll_of_due (P := P)
    (s := { s with busIn := [.ok x], chanIn := RefChannel.script [c] }) (a := c.answer) hready hsubd hmand rfl rfl
  refine ⟨_, _, RefSensor.script_poll P addr x xs, rfl, rfl, ?_⟩
  subst haddr
  rw [hrun]
  refine ⟨hbus, hchan, hsample, hlast, ?_, hevents, ?_⟩
  · obtain ⟨_ | _⟩ := c <;> rfl
  · rw [raise_responses, hresp, responseWord_eq_or]
    obtain ⟨_ | _⟩ := c <;> rfl

end Sys2Proof.Machine
end

section
/-! SUPPORT. Decoding undoes encoding and encoding undoes decoding: an operand field with its must-be-zero bits is the
whole payload, and a word is its three fields (spec/30_encoding.md rules R71, R73, R75 to R77, R80 to R85). -/

namespace Sys2Proof

/-! ## Fields of a word and of a payload -/

/-- A payload is its operand, zero-extended, when the bits above the operand are zero (R71, R77). -/
theorem setWidth_operand {n : Nat} {p : BitVec 48} (h : p.extractLsb' n (48 - n) = 0#(48 - n)) :
    (p.extractLsb' 0 n).setWidth 48 = p := by
  apply BitVec.eq_of_getLsbD_eq
  intro i hi
  by_cases hn : i < n
  · simp [hi, hn]
  · have hbit : (p.extractLsb' n (48 - n)).getLsbD (i - n) = false := by rw [h, BitVec.getLsbD_zero]
    have hlt : i - n < 48 - n := by omega
    rw [BitVec.getLsbD_extractLsb', Nat.add_sub_cancel' (Nat.le_of_not_lt hn)] at hbit
    simpa [hn, hlt] using hbit

/-- Packing the bytes of a payload gives the payload back (R73). -/
@[simp] theorem pack_unpack (p : BitVec 48) : (RawSample.unpack p).pack = p := by
  rw [RawSample.pack, RawSample.unpack]
  iterate 4 rw [BitVec.extractLsb'_append_extractLsb'_eq_extractLsb' (by decide)]
  exact BitVec.extractLsb'_append_extractLsb' (w := 40) (len := 8)

/-- A word whose `RSV` is zero is the command word of its opcode and payload (R71). -/
theorem commandWord_opcode_payload {w : BitVec 64} (h : reserved w = 0#8) :
    commandWord (opcode w) (payload w) = w := by
  rw [commandWord, ← h]
  calc opcode w ++ reserved w ++ payload w
      = w.extractLsb' 48 16 ++ payload w :=
        congrArg (· ++ payload w) (BitVec.extractLsb'_append_extractLsb'_eq_extractLsb' rfl)
    _ = w := BitVec.extractLsb'_append_extractLsb'

/-! ## The round trips -/

theorem accept_eq_ok_iff {b : Bool} {r : Reject} {i j : Instr} : accept b r i = .ok j ↔ b = true ∧ i = j := by
  cases b <;> simp [accept]

theorem accept_ne_error {b : Bool} {r r' : Reject} {i : Instr} (h : r ≠ r') : accept b r i ≠ .error r' := by
  cases b <;> simp [accept, h]

/-- A read length is read back from the number of bytes it asks for (R46, R81). -/
theorem decodeTransfer_busRead (reg : Byte) (len : ReadLen) :
    decodeTransfer [reg] len.toNat = .ok (.busRead reg len) := by
  cases len <;> rfl

/-- Settles O1: the fields of an assembled word are the opcode, zero and the operand, and the bits above the operand
are zero. -/
theorem decodeEncodeRoundTrip : Obligations.DecodeEncodeRoundTrip := by
  intro i
  cases i with
  | rdacc | lpexit | sub | unsub | poll => simp [encode, decodeEncoding, decode, accept]
  | init | lpenter | rdreg => simp [encode, decodeEncoding, decode, accept, extract_low, extract_high]
  | eval sample => simp [encode, decodeEncoding, decode, accept]
  | busWrite reg val => rfl
  | busRead reg len => exact decodeTransfer_busRead reg len

/-- What is accepted is the encoding of its instruction, when the opcode is the instruction's and the must-be-zero
bits of the payload leave no payload but the instruction's. -/
theorem encode_of_accept {w : BitVec 64} {o : BitVec 8} {p : BitVec 48} {b : Bool} {r : Reject} {i j : Instr}
    (ho : opcode w = o) (hi : encode i = .command (commandWord o p)) (hp : b = true → p = payload w)
    (h : accept (reserved w == 0#8 && b) r i = .ok j) : encode j = .command w := by
  obtain ⟨hb, rfl⟩ := accept_eq_ok_iff.1 h
  obtain ⟨hrsv, hpay⟩ := (Bool.and_eq_true _ _).mp hb
  rw [hi, ← ho, hp hpay, commandWord_opcode_payload (eq_of_beq hrsv)]

/-- `encode_of_accept` for the formats whose payload is all zero. -/
theorem encode_of_accept_bare {w : BitVec 64} {o : BitVec 8} {r : Reject} {i j : Instr} (ho : opcode w = o)
    (hi : encode i = .command (commandWord o 0#48))
    (h : accept (reserved w == 0#8 && payload w == 0#48) r i = .ok j) : encode j = .command w :=
  encode_of_accept ho hi (fun hb => (eq_of_beq hb).symm) h

/-- `encode_of_accept` for the formats with an operand in the low `n` bits. -/
theorem encode_of_accept_operand {w : BitVec 64} {o : BitVec 8} {n : Nat} {r : Reject} {j : Instr}
    (op : BitVec n → Instr) (ho : opcode w = o)
    (hop : ∀ v, encode (op v) = .command (commandWord o (v.setWidth 48)))
    (h : accept (reserved w == 0#8 && (payload w).extractLsb' n (48 - n) == 0#(48 - n)) r
      (op ((payload w).extractLsb' 0 n)) = .ok j) : encode j = .command w :=
  encode_of_accept ho (hop _) (fun hb => setWidth_operand (eq_of_beq hb)) h

/-- A command word that decodes is the encoding of what it decodes to (R71, R75, R77). -/
theorem encode_of_decode {w : BitVec 64} {i : Instr} (h : decode w = .ok i) : encode i = .command w := by
  unfold decode at h
  split_ifs at h with hinit hrdacc hlpenter hlpexit hsub hunsub heval hpoll hrdreg
  · exact encode_of_accept_operand .init hinit (fun _ => rfl) h
  · exact encode_of_accept_bare hrdacc rfl h
  · exact encode_of_accept_operand .lpenter hlpenter (fun _ => rfl) h
  · exact encode_of_accept_bare hlpexit rfl h
  · exact encode_of_accept_bare hsub rfl h
  · exact encode_of_accept_bare hunsub rfl h
  · exact encode_of_accept (b := true) heval rfl (fun _ => pack_unpack _) (by rwa [Bool.and_true])
  · exact encode_of_accept_bare hpoll rfl h
  · exact encode_of_accept_operand .rdreg hrdreg (fun _ => rfl) h

/-- A byte list that decodes is the encoding of what it decodes to (R80, R81). -/
theorem encode_of_decodeTransfer {bytes : List Byte} {n : Nat} {i : Instr} (h : decodeTransfer bytes n = .ok i) :
    encode i = .transfer bytes n := by
  unfold decodeTransfer at h
  split at h
  · obtain ⟨hn, rfl⟩ := accept_eq_ok_iff.1 h
    rw [eq_of_beq hn, encode]
  · split_ifs at h with hone
    · obtain rfl := Except.ok.inj h
      rw [hone, encode]
    · obtain ⟨hsix, rfl⟩ := accept_eq_ok_iff.1 h
      rw [eq_of_beq hsix, encode]
  · cases h

/-- Settles O2: a word is put together again from its opcode, its zero `RSV` and its payload. -/
theorem encodeDecodeRoundTrip : Obligations.EncodeDecodeRoundTrip := by
  intro e i h
  cases e with
  | command w => exact encode_of_decode h
  | transfer bytes n => exact encode_of_decodeTransfer h

/-! ## Worked encodings and the pseudo-instruction -/

/-- A command word that is an instruction's encoding decodes to it. -/
theorem decode_of_encode {i : Instr} {w : BitVec 64} (h : encode i = .command w) : decode w = .ok i := by
  have hi : decodeEncoding (encode i) = .ok i := decodeEncodeRoundTrip i
  rwa [h] at hi

/-- Settles O3: each word is assembled from its fields, and so decodes to its command. -/
theorem workedEncodings : Obligations.WorkedEncodings := by
  have worked {i : Instr} {w : BitVec 64} (h : encode i = .command w) : decode w = .ok i ∧ encode i = .command w :=
    ⟨decode_of_encode h, h⟩
  exact ⟨worked rfl, worked rfl, worked rfl, worked rfl, worked rfl, worked rfl, worked rfl, worked rfl, worked rfl,
    rfl, rfl, rfl, rfl, rfl, rfl, rfl, rfl, rfl⟩

/-- The bytes of three packed 16-bit values, two by two and high byte first, are the values (R73, R84). -/
theorem unpack_append (x y z : BitVec 16) :
    (RawSample.unpack (x ++ y ++ z)).b0 ++ (RawSample.unpack (x ++ y ++ z)).b1 = x ∧
      (RawSample.unpack (x ++ y ++ z)).b2 ++ (RawSample.unpack (x ++ y ++ z)).b3 = y ∧
      (RawSample.unpack (x ++ y ++ z)).b4 ++ (RawSample.unpack (x ++ y ++ z)).b5 = z := by
  have hxy {len : Nat} (start : Nat) (h : 16 ≤ start) :
      (x ++ y ++ z).extractLsb' start len = (x ++ y).extractLsb' (start - 16) len :=
    BitVec.extractLsb'_append_eq_of_le h
  have join {a : Nat} (b : Nat) (h : a = b + 8) :
      (x ++ y ++ z).extractLsb' a 8 ++ (x ++ y ++ z).extractLsb' b 8 = (x ++ y ++ z).extractLsb' b 16 :=
    BitVec.extractLsb'_append_extractLsb'_eq_extractLsb' h
  exact ⟨(join 32 rfl).trans ((hxy 32 (by decide)).trans BitVec.extractLsb'_append_eq_left),
    (join 16 rfl).trans ((hxy 16 (by decide)).trans BitVec.extractLsb'_append_eq_right),
    (join 0 rfl).trans BitVec.extractLsb'_append_eq_right⟩

end Sys2Proof

namespace Sys2Proof.Machine

/-- A 16-bit signed value is the two's complement of the two bytes that hold it (R8, R130). -/
theorem s16_of_append_eq_ofInt {h l : Byte} {v : Int} (hb : h ++ l = BitVec.ofInt 16 v)
    (hv : -32768 ≤ v ∧ v ≤ 32767) : s16 h l = v := by
  rw [s16, hb]
  exact BitVec.toInt_ofInt_eq_self (by decide) hv.1 (by omega)

/-- Settles O54: the bytes of the packed values are the values again, two by two. -/
theorem evalxyzExpands : Obligations.EvalxyzExpands := by
  refine ⟨fun x y z hrange => ?_, rfl⟩
  obtain ⟨hx, hy, hz⟩ := unpack_append (BitVec.ofInt 16 x) (BitVec.ofInt 16 y) (BitVec.ofInt 16 z)
  refine ⟨sampleOf x y z, rfl, ?_, hx.symm, hy.symm, hz.symm⟩
  rw [decodeSample, AccelVec.mk.injEq]
  exact ⟨s16_of_append_eq_ofInt hx (hrange x (by simp)), s16_of_append_eq_ofInt hy (hrange y (by simp)),
    s16_of_append_eq_ofInt hz (hrange z (by simp))⟩

end Sys2Proof.Machine
end

section
/-! SUPPORT. The words the decoder rejects, and the operands a command refuses (spec/30_encoding.md rules R76, R77;
spec/43_host_access.md rules R180, R181). -/

namespace Sys2Proof.Machine

/-! ## Reserved opcodes -/

/-- Exactly the reserved opcodes are answered `IllegalCommand` (R76). -/
theorem decode_eq_illegalCommand_iff {w : BitVec 64} :
    decode w = .error .illegalCommand ↔ opcode w = 0x00#8 ∨ 0x0A ≤ (opcode w).toNat := by
  unfold decode
  split_ifs with hinit hrdacc hlpenter hlpexit hsub hunsub heval hpoll hrdreg
  case neg => exact iff_of_true rfl (by bv_omega)
  all_goals exact iff_of_false (accept_ne_error nofun) (by bv_omega)

/-- Settles O4: the decoder rejects the word, and the core refuses it. -/
theorem reservedOpcodeRefused : Obligations.ReservedOpcodeRefused := by
  intro s w rest hin hopc
  rw [step_present hin]
  exact serveEncoding_error (e := .command w) (decode_eq_illegalCommand_iff.2 hopc) _

/-! ## Must-be-zero bits and illegal operands -/

/-- An assembled word is clear of its format's must-be-zero bits when its payload is clear of those in `PAY`. -/
theorem commandWord_and_mustBeZeroBits {o : BitVec 8} {p : BitVec 48} (k : BitVec 48)
    (hm : mustBeZeroBits o = 0x00#8 ++ 0xFF#8 ++ k) (hp : p &&& k = 0#48) :
    commandWord o p &&& mustBeZeroBits (opcode (commandWord o p)) = 0#64 := by
  have hw : commandWord o p &&& (0x00#8 ++ 0xFF#8 ++ k) = (o &&& 0x00#8) ++ (0x00#8 &&& 0xFF#8) ++ (p &&& k) := by
    rw [commandWord, BitVec.and_append, BitVec.and_append]
  rw [opcode_commandWord, hm, hw, hp, BitVec.and_zero]
  rfl

/-- The encoding of a command has no must-be-zero bit set (R71, R83). -/
theorem and_mustBeZeroBits_of_encode {i : Instr} {w : BitVec 64} (h : encode i = .command w) :
    w &&& mustBeZeroBits (opcode w) = 0#64 := by
  cases i with
  | busWrite | busRead => cases h
  | init addr =>
    cases h
    exact commandWord_and_mustBeZeroBits 0xFFFFFFFFFF80#48 rfl (setWidth_and_mask addr _ (by decide))
  | lpenter wf =>
    cases h
    exact commandWord_and_mustBeZeroBits 0xFFFFFFFFFF00#48 rfl (setWidth_and_mask wf _ (by decide))
  | rdreg rn =>
    cases h
    exact commandWord_and_mustBeZeroBits 0xFFFFFFFFFFF0#48 rfl (setWidth_and_mask rn _ (by decide))
  | eval sample =>
    cases h
    exact commandWord_and_mustBeZeroBits 0#48 rfl BitVec.and_zero
  | rdacc | lpexit | sub | unsub | poll =>
    cases h
    exact commandWord_and_mustBeZeroBits 0xFFFFFFFFFFFF#48 rfl BitVec.zero_and

/-- A word with a legal opcode and a must-be-zero bit set decodes to no instruction, for what decodes is an encoding;
the refusal is RDREG's own or `IllegalOperand` (R77, R181). -/
theorem decode_of_mustBeZero_set {w : BitVec 64} (hlo : 1 ≤ (opcode w).toNat) (hhi : (opcode w).toNat ≤ 9)
    (hbits : w &&& mustBeZeroBits (opcode w) ≠ 0#64) :
    decode w = .error (if opcode w = 0x09#8 then .illegalRdreg else .illegalOperand) := by
  have hnot (i : Instr) : decode w ≠ .ok i := fun h => hbits (and_mustBeZeroBits_of_encode (encode_of_decode h))
  split
  · next h => exact (decode_of_opcode_rdreg h).resolve_left fun ⟨rn, hd⟩ => hnot _ hd
  · next h =>
    rcases decode_of_opcode_ne_rdreg h with ⟨i, hd, -⟩ | hd | hd
    · exact absurd hd (hnot i)
    · exact hd
    · have hres := decode_eq_illegalCommand_iff.1 hd
      bv_omega

/-- Exactly the numbers 11 to 15 name no register (R180). -/
theorem readReg_eq_none_iff {rn : BitVec 4} {r : Regs} : readReg rn r = none ↔ 11 ≤ rn.toNat := by
  unfold readReg
  split <;> simp_all
  omega

/-- Settles O5: must-be-zero bits are refused by the decoder, illegal operands by the commands themselves. -/
theorem illegalOperandRefused : Obligations.IllegalOperandRefused := by
  refine ⟨fun s w rest hin hlo hhi hbits => ?_, fun rn s hrn => ?_, fun P wf s hwf => ?_, fun _ _ => rfl⟩
  · rw [step_present hin, serveEncoding_error (e := .command w) (decode_of_mustBeZero_set hlo hhi hbits)]
    split <;> rfl
  · show execRdreg rn s = _
    rw [execRdreg, readReg_eq_none_iff.2 hrn]
    rfl
  · have hc : P.wfLegal.contains wf = false := by simpa using hwf
    rw [runLpenter, hc]
    rfl

end Sys2Proof.Machine
end

section
/-! SUPPORT. A command as the walk of its step list: start, transactions up to the first that fails, end. Each
instruction is such a walk or is refused, and each statement about the driver follows from what the walk does
(spec/40_driver.md rules R100 to R118; spec/60_exceptions.md rule R195). -/

namespace Sys2Proof.Machine

/-! ## A list of transactions -/

/-- The state after the transactions `ops`, all of them issued. -/
def transactAll (ops : List MicroOp) (s : State) : State :=
  ops.foldl (fun u op => (transact op u).2) s

@[simp] theorem transactAll_nil (s : State) : transactAll [] s = s := rfl

@[simp] theorem transactAll_cons (op : MicroOp) (ops : List MicroOp) (s : State) :
    transactAll (op :: ops) s = transactAll ops (transact op s).2 := rfl

/-- A list of transactions steps SEQ by its answers, uses those answers up and records them; nothing else changes. -/
theorem transactAll_eq (ops : List MicroOp) (s : State) :
    transactAll ops s = { s with
      regs := { s.regs with seq := (answersTo ops s).foldl (fun q a => seqAfter a q) s.regs.seq }
      busIn := s.busIn.drop (answersTo ops s).length
      events := s.events ++ eventsOf s.regs.devaddr ops (answersTo ops s) } := by
  induction ops generalizing s with
  | nil => simp [answersTo, eventsOf]
  | cons op ops ih =>
    rw [transactAll_cons, ih]
    simp [answersTo, eventsOf]

/-- SEQ counts the transactions answered `ok` (R18). -/
theorem foldl_seqAfter_ok (ds : List RawSample) (q : BitVec 4) :
    (ds.map BusAnswer.ok).foldl (fun q a => seqAfter a q) q = q + BitVec.ofNat 4 ds.length := by
  induction ds generalizing q with
  | nil => simp
  | cons d ds ih =>
    rw [List.map_cons, List.foldl_cons, ih, List.length_cons, Nat.add_comm, BitVec.ofNat_add, ← BitVec.add_assoc]
    rfl

/-- The answers run all `ok`, or all `ok` up to a first `fail`. -/
theorem answersTo_cases (ops : List MicroOp) (s : State) :
    (∃ ds : List RawSample, answersTo ops s = ds.map .ok) ∨
      ∃ ds : List RawSample, ds.length < ops.length ∧
        answersTo (ops.take (ds.length + 1)) s = ds.map .ok ++ [.fail] := by
  induction ops generalizing s with
  | nil => exact .inl ⟨[], rfl⟩
  | cons op ops ih =>
    cases ha : busAnswer op s with
    | fail => exact .inr ⟨[], by simp, by simp [answersTo, ha]⟩
    | ok d =>
      rcases ih (transact op s).2 with ⟨ds, h⟩ | ⟨ds, hk, h⟩
      · exact .inl ⟨d :: ds, by simp [answersTo, ha, h]⟩
      · exact .inr ⟨d :: ds, by simpa using hk, by simp [answersTo, ha, h]⟩

/-- Writes answered `ok` are recorded without bytes. -/
theorem eventsOf_writesOf_ok (addr : BitVec 7) {pairs : List (Byte × Byte)} {ds : List RawSample}
    (h : pairs.length = ds.length) :
    eventsOf addr (writesOf pairs) (ds.map .ok) = pairs.map fun p => .bus addr (.write p.1 p.2) (.ok []) := by
  induction pairs generalizing ds with
  | nil => rfl
  | cons p pairs ih =>
    obtain _ | ⟨d, ds⟩ := ds
    · cases h
    · exact congrArg (_ :: ·) (ih (Nat.succ.inj h))

/-! ## The walk -/

/-- Issue `ops` one by one: the first that fails raises `BusError` and is the last; when all succeed, end with `fin`
of the data the last answer carried, `d` if there is none (R101, R115, R195). -/
def walk (fin : RawSample → State → State) (ops : List MicroOp) (d : RawSample) (s : State) : State :=
  match ops with
  | [] => fin d s
  | op :: rest =>
    match busAnswer op s with
    | .ok d' => walk fin rest d' (transact op s).2
    | .fail => raise .busError .none 0#48 (transact op s).2

variable {fin : RawSample → State → State} {ops : List MicroOp} {d : RawSample} {s : State} {ds : List RawSample}

/-- A walk goes on past a transaction answered `ok`. -/
theorem walk_cons_of_ok {op : MicroOp} {d' : RawSample} (h : busAnswer op s = .ok d') :
    walk fin (op :: ops) d s = walk fin ops d' (transact op s).2 := by
  simp only [walk, h]

/-- A walk is over at a transaction answered `fail`. -/
theorem walk_cons_of_fail {op : MicroOp} (h : busAnswer op s = .fail) :
    walk fin (op :: ops) d s = raise .busError .none 0#48 (transact op s).2 := by
  simp only [walk, h]

theorem answersTo_cons_eq_ok {op : MicroOp} {d' : RawSample} {as : List BusAnswer}
    (h : answersTo (op :: ops) s = .ok d' :: as) :
    busAnswer op s = .ok d' ∧ answersTo ops (transact op s).2 = as :=
  List.cons.inj h

/-- A walk with every transaction answered `ok` reaches its end. -/
theorem walk_of_ok (h : answersTo ops s = ds.map .ok) :
    walk fin ops d s = fin (ds.getLastD d) (transactAll ops s) := by
  induction ops generalizing s d ds with
  | nil =>
    obtain rfl : ds = [] := List.map_eq_nil_iff.1 h.symm
    rfl
  | cons op ops ih =>
    obtain _ | ⟨d', ds⟩ := ds
    · cases h
    · obtain ⟨ha, hrest⟩ := answersTo_cons_eq_ok h
      rw [walk_cons_of_ok ha, ih hrest, List.getLastD_cons, transactAll_cons]

/-- A walk stops at the first transaction that fails (R195). -/
theorem walk_of_fail (hk : ds.length < ops.length)
    (h : answersTo (ops.take (ds.length + 1)) s = ds.map .ok ++ [.fail]) :
    walk fin ops d s = raise .busError .none 0#48 (transactAll (ops.take (ds.length + 1)) s) := by
  induction ops generalizing s d ds with
  | nil => cases hk
  | cons op ops ih =>
    obtain _ | ⟨d', ds⟩ := ds
    · exact walk_cons_of_fail (List.cons.inj h).1
    · obtain ⟨ha, hrest⟩ := answersTo_cons_eq_ok h
      rw [walk_cons_of_ok ha, ih (Nat.lt_of_succ_lt_succ hk) hrest]
      rfl

/-- A list of writes is walked by `writeAll`; what follows must not need the data, since a write carries none. -/
theorem walk_writesOf_append (hdata : ∀ d d' s, walk fin ops d s = walk fin ops d' s) (pairs : List (Byte × Byte)) :
    walk fin (writesOf pairs ++ ops) d s =
      if (writeAll pairs s).1 = true then walk fin ops d (writeAll pairs s).2
      else raise .busError .none 0#48 (writeAll pairs s).2 := by
  induction pairs generalizing s d with
  | nil => rfl
  | cons p pairs ih =>
    cases ha : busAnswer (.write p.1 p.2) s with
    | ok d' =>
      have hw : writeAll (p :: pairs) s = writeAll pairs (transact (.write p.1 p.2) s).2 := by
        simp only [writeAll, memWrite_eq, ha]
      rw [hw, hdata d d', ← ih]
      exact walk_cons_of_ok ha
    | fail =>
      have hw : writeAll (p :: pairs) s = (false, (transact (.write p.1 p.2) s).2) := by
        simp only [writeAll, memWrite_eq, ha]
      rw [hw]
      exact walk_cons_of_fail ha

/-- A change of the state that no transaction, no error and no end of a command notices goes through the walk. -/
theorem walk_comm {f : State → State} (hanswer : ∀ op s, busAnswer op (f s) = busAnswer op s)
    (htransact : ∀ op s, (transact op (f s)).2 = f (transact op s).2)
    (hraise : ∀ s, raise .busError .none 0#48 (f s) = f (raise .busError .none 0#48 s))
    (hfin : ∀ d s, fin d (f s) = f (fin d s)) : walk fin ops d (f s) = f (walk fin ops d s) := by
  induction ops generalizing s d with
  | nil => exact hfin d s
  | cons op ops ih =>
    cases ha : busAnswer op s with
    | ok d' => rw [walk_cons_of_ok ha, walk_cons_of_ok ((hanswer op s).trans ha), htransact, ih]
    | fail => rw [walk_cons_of_fail ha, walk_cons_of_fail ((hanswer op s).trans ha), htransact, hraise]

/-! ## Each instruction as a walk -/

/-- `NotReady` while the driver is `UNINIT` (R102). -/
def unready (s : State) : Option Status := if s.regs.drv = drvUninit then some .notReady else none

/-- The status with which an instruction is refused before its first step, if it is (R77, R102). -/
def refusal (i : Instr) (s : State) : Option Status :=
  match i with
  | .rdacc | .lpexit | .poll => unready s
  | .lpenter wf => if Config.params.wfLegal.contains wf then unready s else some .illegalOperand
  | _ => none

/-- The register writes before step 0 (R101, R104). -/
def commandStart (i : Instr) (s : State) : State :=
  match i with
  | .init addr => ((s.setDevaddr addr).setDrv drvUninit).setSeq 0#4
  | .rdacc | .lpenter _ | .lpexit | .poll => s.setSeq 0#4
  | _ => s

/-- What an instruction does once its transactions succeeded, the last with the data `d`. -/
def commandEnd (i : Instr) (d : RawSample) (u : State) : State :=
  match i with
  | .init _ =>
    if d.b0 = Config.params.idExpected then complete .none 0#48 (u.setDrv drvActive)
    else raise .identityMismatch .none 0#48 u
  | .rdacc => complete .none d.pack (u.setSample d.pack)
  | .lpenter _ => complete .none 0#48 (u.setDrv drvCycledLp)
  | .lpexit => complete .none 0#48 (u.setDrv drvActive)
  | .sub => runSub Config.params u
  | .unsub => runUnsub u
  | .eval sample => runEval Config.params sample u
  | .poll => evaluate Config.params d d.pack (u.setSample d.pack)
  | .rdreg rn => (readReg rn u.regs).elim (respond .illegalOperand .none 0#48 u) (fun v => respond .ok .none v u)
  | .busWrite _ _ | .busRead _ _ => u

/-- The walk of the command's step list from its start to its end. -/
def runWalk (i : Instr) (s : State) : State :=
  walk (commandEnd i) (stepList Config.params i) default (commandStart i s)

theorem runInit_eq_runWalk (addr : BitVec 7) (s : State) :
    runInit Config.params addr s = runWalk (.init addr) s := by
  rw [runWalk, stepList, walk_writesOf_append (fun _ _ _ => rfl), runInit, commandStart]
  rcases writeAll (initWrites Config.params) (((s.setDevaddr addr).setDrv drvUninit).setSeq 0#4) with ⟨_ | _, u⟩
  · rfl
  · simp only [memReadByte_eq, if_true]
    cases ha : busAnswer (.read Config.params.regIdentity .one) u with
    | ok d => rw [walk_cons_of_ok ha]; rfl
    | fail => rw [walk_cons_of_fail ha]

theorem powerTransition_eq_walk (pairs : List (Byte × Byte)) (drv : BitVec 2) (s : State) :
    powerTransition pairs drv s =
      walk (fun _ u => complete .none 0#48 (u.setDrv drv)) (writesOf pairs) default (s.setSeq 0#4) := by
  rw [← List.append_nil (writesOf pairs), walk_writesOf_append (fun _ _ _ => rfl), powerTransition]
  rcases writeAll pairs (s.setSeq 0#4) with ⟨_ | _, u⟩ <;> rfl

/-- What follows the burst read is walked as the end of its one step. -/
theorem walk_readBlock (cont : RawSample → State → State) (s : State) :
    walk (fun d u => cont d (u.setSample d.pack)) [.read Config.params.regAccelBase .six] default (s.setSeq 0#4) =
      (readBlock Config.params s).1.elim (raise .busError .none 0#48 (readBlock Config.params s).2)
        (fun r => cont r (readBlock Config.params s).2) := by
  rw [readBlock, memReadSample_eq]
  cases ha : busAnswer (.read Config.params.regAccelBase .six) (s.setSeq 0#4) with
  | ok d => rw [walk_cons_of_ok ha]; rfl
  | fail => rw [walk_cons_of_fail ha]; rfl

theorem readAndReport_eq_runWalk (s : State) : readAndReport Config.params s = runWalk .rdacc s := by
  refine Eq.trans ?_ (walk_readBlock (fun d => complete .none d.pack) s).symm
  rw [readAndReport]
  rcases readBlock Config.params s with ⟨_ | r, u⟩ <;> rfl

theorem readAndEvaluate_eq_runWalk (s : State) : readAndEvaluate Config.params s = runWalk .poll s := by
  refine Eq.trans ?_ (walk_readBlock (fun d => evaluate Config.params d d.pack) s).symm
  rw [readAndEvaluate]
  rcases readBlock Config.params s with ⟨_ | r, u⟩ <;> rfl

/-- A micro-operation on its own is a walk of one step. -/
theorem exec_microInstr_eq_walk (op : MicroOp) (s : State) :
    exec (microInstr op) s = .next (walk (fun _ u => u) [op] default s) := by
  rw [exec_microInstr]
  cases ha : busAnswer op s with
  | ok d => rw [walk_cons_of_ok ha]; rfl
  | fail => rw [walk_cons_of_fail ha]

theorem whenReady_eq (run : State → State) (s : State) :
    whenReady run s = (unready s).elim (run s) (fun st => raise st .none 0#48 s) := by
  unfold whenReady unready
  split <;> rfl

theorem execRdreg_eq (rn : BitVec 4) (s : State) : execRdreg rn s = .next (commandEnd (.rdreg rn) default s) := by
  rw [execRdreg, commandEnd]
  cases readReg rn s.regs <;> rfl

/-- Every instruction is refused and only answers, or walks its step list (R77, R100 to R102). -/
theorem exec_eq (i : Instr) (s : State) :
    exec i s = .next ((refusal i s).elim (runWalk i s) (fun st => raise st .none 0#48 s)) := by
  cases i with
  | init addr => exact congrArg Host.Outcome.next (runInit_eq_runWalk addr s)
  | rdacc =>
    rw [exec, execRdacc, runRdacc, whenReady_eq, readAndReport_eq_runWalk]
    rfl
  | lpenter wf =>
    rw [exec, execLpenter, runLpenter, refusal, whenReady_eq, powerTransition_eq_walk]
    cases Config.params.wfLegal.contains wf <;> rfl
  | lpexit =>
    rw [exec, execLpexit, runLpexit, whenReady_eq, powerTransition_eq_walk]
    rfl
  | poll =>
    rw [exec, execPoll, runPoll, whenReady_eq, readAndEvaluate_eq_runWalk]
    rfl
  | sub | unsub | eval => rfl
  | rdreg rn => exact execRdreg_eq rn s
  | busWrite reg val => exact exec_microInstr_eq_walk (.write reg val) s
  | busRead reg len => exact exec_microInstr_eq_walk (.read reg len) s

theorem exec_of_refusal {i : Instr} {st : Status} (h : refusal i s = some st) :
    exec i s = .next (raise st .none 0#48 s) := by
  rw [exec_eq, h]
  rfl

theorem exec_of_accepted {i : Instr} (h : refusal i s = none) : exec i s = .next (runWalk i s) := by
  rw [exec_eq, h]
  rfl

/-- An accepted instruction whose transactions are all answered `ok` reaches its end. -/
theorem exec_of_ok {i : Instr} (hi : refusal i s = none)
    (h : answersTo (stepList Config.params i) (commandStart i s) = ds.map .ok) :
    exec i s = .next
      (commandEnd i (ds.getLastD default) (transactAll (stepList Config.params i) (commandStart i s))) := by
  rw [exec_of_accepted hi, runWalk, walk_of_ok h]

/-- An accepted instruction stops with `BusError` at its first transaction answered `fail`. -/
theorem exec_of_fail {i : Instr} (hi : refusal i s = none) (hk : ds.length < (stepList Config.params i).length)
    (h : answersTo ((stepList Config.params i).take (ds.length + 1)) (commandStart i s) = ds.map .ok ++ [.fail]) :
    exec i s = .next (raise .busError .none 0#48
      (transactAll ((stepList Config.params i).take (ds.length + 1)) (commandStart i s))) := by
  rw [exec_of_accepted hi, runWalk, walk_of_fail hk h]

/-- The commands that need a ready driver, with a legal selector (R102). -/
def NeedsReadyDriver (i : Instr) : Prop :=
  i = .rdacc ∨ i = .lpexit ∨ i = .poll ∨ ∃ wf ∈ Config.params.wfLegal, i = .lpenter wf

theorem refusal_eq_unready {i : Instr} (hi : NeedsReadyDriver i) : refusal i s = unready s := by
  rcases hi with rfl | rfl | rfl | ⟨wf, hwf, rfl⟩
  · rfl
  · rfl
  · rfl
  · exact if_pos (List.contains_iff_mem.2 hwf)

theorem exec_of_unready {i : Instr} (hdrv : s.regs.drv = 0#2) (hi : NeedsReadyDriver i) :
    exec i s = .next (raise .notReady .none 0#48 s) :=
  exec_of_refusal ((refusal_eq_unready hi).trans (if_pos hdrv))

theorem refusal_of_ready {i : Instr} (hdrv : s.regs.drv ≠ 0#2) (hi : NeedsReadyDriver i) : refusal i s = none :=
  (refusal_eq_unready hi).trans (if_neg hdrv)

end Sys2Proof.Machine
end

section
/-! SUPPORT. The driver commands, from what a walk does: the refusals, the state each command leaves, the power states,
the separation from the throttle, the bus traffic, and the commands as their micro-operations (spec/40_driver.md rules
R100 to R118). -/

namespace Sys2Proof.Machine

/-! ## Refusals -/

/-- `t` is `s` after a command that answered something else than `NotReady`. -/
def NeverNotReady (s t : State) : Prop :=
  ∃ w, t.responses = s.responses ++ [w] ∧ responseStatus w ≠ 4#4

theorem raise_neverNotReady {st : Status} (h : st.code ≠ 4#4) (d : Decision) (data : BitVec 48) {s u : State}
    (hu : u.responses = s.responses) : NeverNotReady s (raise st d data u) :=
  ⟨_, by rw [raise_responses, hu], by rwa [responseStatus_responseWord]⟩

theorem runInit_neverNotReady (P : Params) (addr : BitVec 7) (s : State) : NeverNotReady s (runInit P addr s) := by
  obtain ⟨u, ⟨q, b, es, -, rfl⟩, h | h | h⟩ := runInit_cases P addr s <;> rw [h]
  all_goals exact raise_neverNotReady (by decide) _ _ rfl

theorem evaluate_neverNotReady (P : Params) (sample : RawSample) (data : BitVec 48) (s : State) :
    NeverNotReady s (evaluate P sample data s) := by
  rcases evaluate_cases P sample data s with ⟨-, h⟩ | ⟨-, -, h⟩ | ⟨-, -, -, h⟩ | ⟨-, -, -, h⟩ <;> rw [h]
  all_goals exact raise_neverNotReady (by decide) _ _ rfl

theorem rdreg_neverNotReady (rn : BitVec 4) (s : State) : NeverNotReady s (commandEnd (.rdreg rn) default s) := by
  show NeverNotReady s ((readReg rn s.regs).elim _ _)
  cases readReg rn s.regs
  all_goals exact ⟨_, rfl, by rw [responseStatus_responseWord]; decide⟩

/-- Settles O6: the four commands are refused before their first step; the others end in another status. -/
theorem notReadyRefused : Obligations.NotReadyRefused := by
  refine ⟨fun s i hdrv hi => exec_of_unready hdrv hi, fun s i hi => ?_⟩
  have hanswer : ∃ t, exec i s = .next t ∧ NeverNotReady s t := by
    rcases hi with ⟨addr, rfl⟩ | rfl | rfl | ⟨sample, rfl⟩ | ⟨rn, rfl⟩
    · exact ⟨_, rfl, runInit_neverNotReady Config.params addr s⟩
    · exact ⟨_, rfl, raise_neverNotReady (by decide) _ _ rfl⟩
    · exact ⟨_, rfl, raise_neverNotReady (by decide) _ _ rfl⟩
    · exact ⟨_, rfl, evaluate_neverNotReady Config.params sample 0#48 s⟩
    · exact ⟨_, execRdreg_eq rn s, rdreg_neverNotReady rn s⟩
  obtain ⟨t, ht, w, hresp, hst⟩ := hanswer
  exact ⟨t, w, ht, hresp, hst⟩

/-! ## The state a command leaves -/

/-- The state after a command's transactions, all answered `ok` (R18, R101). -/
theorem transactAll_of_ok {ops : List MicroOp} {s : State} {ds : List RawSample} (hseq : s.regs.seq = 0#4)
    (h : answersTo ops s = ds.map .ok) :
    transactAll ops s = { s with
      regs := { s.regs with seq := BitVec.ofNat 4 ds.length }
      busIn := s.busIn.drop ds.length
      events := s.events ++ eventsOf s.regs.devaddr ops (ds.map .ok) } := by
  rw [transactAll_eq, h, foldl_seqAfter_ok, hseq, BitVec.zero_add, List.length_map]

/-- The state after a command's transactions, all answered `ok` but the last (R105, R113, R195). -/
theorem transactAll_of_fail {ops : List MicroOp} {s : State} {ds : List RawSample} (hseq : s.regs.seq = 0#4)
    (h : answersTo ops s = ds.map .ok ++ [.fail]) :
    transactAll ops s = { s with
      regs := { s.regs with seq := BitVec.ofNat 4 ds.length }
      busIn := s.busIn.drop (ds.length + 1)
      events := s.events ++ eventsOf s.regs.devaddr ops (ds.map .ok ++ [.fail]) } := by
  rw [transactAll_eq, h, List.foldl_append, foldl_seqAfter_ok, hseq, BitVec.zero_add, List.length_append,
    List.length_map]
  rfl

/-- INIT's transactions meet the answers given at the new address. -/
theorem answersTo_commandStart_init (ops : List MicroOp) (addr : BitVec 7) (s : State) :
    answersTo ops (commandStart (.init addr) s) = answersTo ops (s.setDevaddr addr) :=
  answersTo_congr ops rfl rfl rfl

theorem answersTo_setSeq (ops : List MicroOp) (q : BitVec 4) (s : State) :
    answersTo ops (s.setSeq q) = answersTo ops s :=
  answersTo_congr ops rfl rfl rfl

theorem init_steps_length (addr : BitVec 7) : (stepList Config.params (.init addr)).length = 6 := rfl

/-- The six events of an INIT answered `ok` throughout, by the identity byte (R104). -/
theorem eventsOf_init_ok (dev addr : BitVec 7) {ds : List RawSample} (d : RawSample) (h : ds.length = 5) :
    eventsOf dev (stepList Config.params (.init addr)) (ds.map .ok ++ [.ok d]) =
      (initEvents Config.params dev).take 5
        ++ [.bus dev (.read Config.params.regIdentity .one) (.ok [d.b0])] := by
  have hwrites := eventsOf_writesOf_ok dev (pairs := initWrites Config.params) h.symm
  have hlen : (writesOf (initWrites Config.params)).length = (ds.map BusAnswer.ok).length := by
    rw [List.length_map, h]
    rfl
  rw [eventsOf] at hwrites
  rw [eventsOf, stepList, List.zipWith_append hlen, hwrites]
  rfl

/-- Settles O7: the walk reaches its end, where the identity byte decides. -/
theorem initSemantics : Obligations.InitSemantics := by
  intro addr s ds d h
  have hlen : ds.length = 5 := by
    have hl := congrArg List.length h
    rw [answersTo_length, init_steps_length] at hl
    simpa using hl.symm
  have h0 : answersTo (stepList Config.params (.init addr)) (commandStart (.init addr) s)
      = (ds ++ [d]).map .ok := by
    rw [List.map_append]
    exact (answersTo_commandStart_init _ addr s).trans h
  have hexec := exec_of_ok (i := .init addr) rfl h0
  rw [transactAll_of_ok rfl h0, List.getLastD_concat, List.map_append, List.map_singleton,
    eventsOf_init_ok _ addr d hlen, List.length_append, hlen] at hexec
  refine ⟨fun hid => ?_, fun hid => ?_⟩
  · rw [hexec, commandEnd, if_pos hid, hid]
    rfl
  · rw [hexec, commandEnd, if_neg hid, List.append_assoc]
    rfl

/-- Settles O8. -/
theorem initBusFailure : Obligations.InitBusFailure := by
  intro addr s ds hk h
  have h0 : answersTo ((stepList Config.params (.init addr)).take (ds.length + 1)) (commandStart (.init addr) s)
      = ds.map .ok ++ [.fail] := (answersTo_commandStart_init _ addr s).trans h
  rw [exec_of_fail rfl (Nat.lt_succ_of_le hk) h0, transactAll_of_fail rfl h0]
  rfl

theorem responseWord_ok_none (data : BitVec 48) : responseWord .ok .none data = data.setWidth 64 := by
  rw [responseWord_eq_or]
  exact BitVec.zero_or

/-- Settles O9. -/
theorem rdaccReads : Obligations.RdaccReads := by
  refine ⟨fun s hdrv => exec_of_unready hdrv (.inl rfl), fun s r hdrv h => ?_⟩
  have h0 : answersTo (stepList Config.params .rdacc) (commandStart .rdacc s) = [r].map .ok :=
    congrArg (fun a => [a]) h
  rw [exec_of_ok (refusal_of_ready hdrv (.inl rfl)) h0, transactAll_of_ok rfl h0, ← responseWord_ok_none,
    ← List.drop_one]
  rfl

/-- Settles O10. -/
theorem rdaccBusFailure : Obligations.RdaccBusFailure := by
  intro s hdrv h
  have h0 : answersTo ((stepList Config.params .rdacc).take (([] : List RawSample).length + 1))
      (commandStart .rdacc s) = [].map .ok ++ [.fail] := congrArg (fun a => [a]) h
  rw [exec_of_fail (ds := []) (refusal_of_ready hdrv (.inl rfl)) Nat.zero_lt_one h0,
    transactAll_of_fail rfl h0, ← List.drop_one]
  rfl

/-- A power transition whose writes are all answered `ok` (R111, R112). -/
theorem exec_powerTransition_of_ok {i : Instr} {s : State} {pairs : List (Byte × Byte)} {drv : BitVec 2}
    {ds : List RawSample} (hi : refusal i s = none) (hsteps : stepList Config.params i = writesOf pairs)
    (hstart : commandStart i s = s.setSeq 0#4)
    (hend : ∀ d u, commandEnd i d u = complete .none 0#48 (u.setDrv drv))
    (h : answersTo (stepList Config.params i) s = ds.map .ok) :
    exec i s = .next { s with
      regs := { s.regs with drv := drv, seq := BitVec.ofNat 4 pairs.length, err := 0#4 }
      busIn := s.busIn.drop pairs.length
      events := s.events ++ pairs.map fun p => .bus s.regs.devaddr (.write p.1 p.2) (.ok [])
      responses := s.responses ++ [0x0000000000000000#64] } := by
  have hlen : pairs.length = ds.length := by
    have hl := congrArg List.length h
    rwa [answersTo_length, hsteps, writesOf, List.length_map, List.length_map] at hl
  have h0 : answersTo (stepList Config.params i) (commandStart i s) = ds.map .ok := by
    rw [hstart]
    exact (answersTo_setSeq _ 0#4 s).trans h
  rw [exec_of_ok hi h0, hend]
  rw [hstart, hsteps] at h0 ⊢
  rw [transactAll_of_ok rfl h0, eventsOf_writesOf_ok _ hlen, hlen]
  rfl

/-- Settles O11. -/
theorem lpenterSucceeds : Obligations.LpenterSucceeds :=
  ⟨fun wf _ hwf hdrv => exec_of_unready hdrv (.inr (.inr (.inr ⟨wf, hwf, rfl⟩))),
    fun wf _ _ hwf hdrv h => exec_powerTransition_of_ok
      (refusal_of_ready hdrv (.inr (.inr (.inr ⟨wf, hwf, rfl⟩)))) rfl rfl (fun _ _ => rfl) h⟩

/-- Settles O12. -/
theorem lpexitSucceeds : Obligations.LpexitSucceeds :=
  ⟨fun _ hdrv => exec_of_unready hdrv (.inr (.inl rfl)),
    fun _ _ hdrv h => exec_powerTransition_of_ok
      (refusal_of_ready hdrv (.inr (.inl rfl))) rfl rfl (fun _ _ => rfl) h⟩

/-- Settles O13. -/
theorem powerTransitionBusFailure : Obligations.PowerTransitionBusFailure := by
  intro i s ds hi hdrv hk h
  have hready : NeedsReadyDriver i := .inr (hi.imp_right .inr)
  have hstart : commandStart i s = s.setSeq 0#4 := by
    rcases hi with rfl | ⟨wf, -, rfl⟩ <;> rfl
  have h0 : answersTo ((stepList Config.params i).take (ds.length + 1)) (commandStart i s) = ds.map .ok ++ [.fail] := by
    rw [hstart]
    exact (answersTo_setSeq _ 0#4 s).trans h
  rw [exec_of_fail (refusal_of_ready hdrv hready) hk h0]
  rw [hstart] at h0 ⊢
  rw [transactAll_of_fail rfl h0]
  rfl

end Sys2Proof.Machine
end

section
/-! SUPPORT. What all instructions do to the driver, the throttle and the bus: the power states, the separation of the
driver from the throttle, the bus traffic, and the commands as their micro-operations (spec/40_driver.md rules R100,
R101, R114, R115, R118; spec/60_exceptions.md rule R195). -/

namespace Sys2Proof.Machine

/-! ## The power states -/

/-- `t` is `s` after a command that answered, with DRV at `good` when the answer is `OK` and at `bad` when not. -/
def DrvByStatus (good bad : BitVec 2) (s t : State) : Prop :=
  ∃ w, t.responses = s.responses ++ [w] ∧ t.regs.drv = if responseStatus w = 0#4 then good else bad

theorem complete_drvByStatus {good : BitVec 2} (bad : BitVec 2) (d : Decision) (data : BitVec 48) {s u : State}
    (hresp : u.responses = s.responses) (hdrv : u.regs.drv = good) : DrvByStatus good bad s (complete d data u) :=
  ⟨_, by rw [complete_responses, hresp], by rw [responseStatus_responseWord]; exact hdrv⟩

theorem raise_drvByStatus (good : BitVec 2) {bad : BitVec 2} {st : Status} (d : Decision) (data : BitVec 48)
    {s u : State} (hresp : u.responses = s.responses) (hdrv : u.regs.drv = bad) (hst : st.code ≠ 0#4) :
    DrvByStatus good bad s (raise st d data u) :=
  ⟨_, by rw [raise_responses, hresp], by rw [responseStatus_responseWord, if_neg hst]; exact hdrv⟩

theorem runInit_drvByStatus (P : Params) (addr : BitVec 7) (s : State) :
    DrvByStatus drvActive drvUninit s (runInit P addr s) := by
  obtain ⟨u, ⟨q, b, es, -, rfl⟩, h | h | h⟩ := runInit_cases P addr s <;> rw [h]
  · exact raise_drvByStatus _ _ _ rfl rfl (by decide)
  · exact raise_drvByStatus _ _ _ rfl rfl (by decide)
  · exact complete_drvByStatus _ _ _ rfl rfl

theorem whenReady_powerTransition_drvByStatus (pairs : List (Byte × Byte)) (drv : BitVec 2) (s : State) :
    DrvByStatus drv s.regs.drv s (whenReady (powerTransition pairs drv) s) := by
  rcases whenReady_cases (powerTransition pairs drv) s with hw | hw <;> rw [hw]
  · exact raise_drvByStatus _ _ _ rfl rfl (by decide)
  · obtain ⟨u, ⟨q, b, es, -, rfl⟩, h | h⟩ := powerTransition_cases pairs drv s <;> rw [h]
    · exact complete_drvByStatus _ _ _ rfl rfl
    · exact raise_drvByStatus _ _ _ rfl rfl (by decide)

theorem runLpenter_drvByStatus (P : Params) (wf : Byte) (s : State) :
    DrvByStatus drvCycledLp s.regs.drv s (runLpenter P wf s) := by
  unfold runLpenter
  split
  · exact whenReady_powerTransition_drvByStatus _ _ s
  · exact raise_drvByStatus _ _ _ rfl rfl (by decide)

/-- A host command answers exactly once (R20, R180). -/
theorem exec_command_responses {i : Instr} {s t : State} (hi : isCommand i = true) (h : exec i s = .next t) :
    ∃ w, t.responses = s.responses ++ [w] := by
  by_cases hr : ∃ rn, i = .rdreg rn
  · obtain ⟨rn, rfl⟩ := hr
    obtain ⟨st, data, rfl⟩ := exec_rdreg_cases h
    exact ⟨_, rfl⟩
  · obtain ⟨-, st, d, data, hresp, -⟩ := (exec_command_ends hi (fun rn h => hr ⟨rn, h⟩) h).answeredInErr
    exact ⟨_, hresp⟩

/-- The commands R11 does not list under DRV leave it whatever they answer. -/
theorem exec_drvByStatus_of_kept {i : Instr} {s t : State} (hi : isCommand i = true) (h : exec i s = .next t)
    (hdrv : t.regs.drv = s.regs.drv) : DrvByStatus s.regs.drv s.regs.drv s t := by
  obtain ⟨w, hresp⟩ := exec_command_responses hi h
  exact ⟨w, hresp, by rw [ite_self, hdrv]⟩

/-- DRV after `i` when it succeeds and when it does not: the table of R114. -/
def drvAfter (i : Instr) (drv : BitVec 2) : BitVec 2 × BitVec 2 :=
  match i with
  | .init _ => (drvActive, drvUninit)
  | .lpenter _ => (drvCycledLp, drv)
  | .lpexit => (drvActive, drv)
  | _ => (drv, drv)

theorem exec_drvByStatus {i : Instr} {s t : State} (hi : isCommand i = true) (h : exec i s = .next t) :
    DrvByStatus (drvAfter i s.regs.drv).1 (drvAfter i s.regs.drv).2 s t := by
  have hl := (exec_frame h).listed
  cases i with
  | init addr => exact Host.Outcome.next.inj h ▸ runInit_drvByStatus Config.params addr s
  | lpenter wf => exact Host.Outcome.next.inj h ▸ runLpenter_drvByStatus Config.params wf s
  | lpexit => exact Host.Outcome.next.inj h ▸ whenReady_powerTransition_drvByStatus _ _ s
  | _ => exact exec_drvByStatus_of_kept hi h ((congrArg Regs.drv hl).trans rfl)

/-- Settles O14: INIT, LPENTER and LPEXIT move DRV by their status, the frame keeps it for the others. -/
theorem drvTransitions : Obligations.DrvTransitions := by
  intro i s t hi _ h
  obtain ⟨w, hresp, hdrv⟩ := exec_drvByStatus hi h
  refine ⟨w, hresp, ?_, fun huninit hready => ?_⟩
  · cases i with
    | init | lpenter | lpexit => exact hdrv
    | _ => exact hdrv.trans (ite_self _)
  · obtain rfl := Host.Outcome.next.inj ((exec_of_unready huninit hready).symm.trans h)
    obtain rfl : responseWord .notReady .none 0#48 = w := by simpa using hresp
    exact responseStatus_responseWord _ _ _

/-! ## The driver apart from the throttle -/

/-- `s` with the throttle registers of `r`. -/
def State.withThrottle (r : Regs) (s : State) : State :=
  { s with regs := { s.regs with subd := r.subd, mand := r.mand, skip := r.skip, lax := r.lax, lay := r.lay,
                                 laz := r.laz } }

/-- The commands that drive the sensor and do not evaluate (R100). -/
def IsDriverCommand (i : Instr) : Prop := (∃ a, i = .init a) ∨ i = .rdacc ∨ (∃ wf, i = .lpenter wf) ∨ i = .lpexit

theorem refusal_withThrottle (i : Instr) (r : Regs) (s : State) : refusal i (s.withThrottle r) = refusal i s := by
  cases i <;> rfl

theorem commandStart_withThrottle (i : Instr) (r : Regs) (s : State) :
    commandStart i (s.withThrottle r) = (commandStart i s).withThrottle r := by
  cases i <;> rfl

theorem commandEnd_withThrottle {i : Instr} (hi : IsDriverCommand i) (r : Regs) (d : RawSample) (u : State) :
    commandEnd i d (u.withThrottle r) = (commandEnd i d u).withThrottle r := by
  rcases hi with ⟨addr, rfl⟩ | rfl | ⟨wf, rfl⟩ | rfl
  · by_cases hid : d.b0 = Config.params.idExpected
    · simp only [commandEnd, if_pos hid]
      rfl
    · simp only [commandEnd, if_neg hid]
      rfl
  all_goals rfl

/-- A driver command does not notice the throttle registers (R118). -/
theorem exec_withThrottle {i : Instr} (hi : IsDriverCommand i) (r : Regs) {s t : State} (h : exec i s = .next t) :
    exec i (s.withThrottle r) = .next (t.withThrottle r) := by
  cases hr : refusal i s with
  | some st =>
    rw [exec_of_refusal hr] at h
    rw [exec_of_refusal ((refusal_withThrottle i r s).trans hr), ← Host.Outcome.next.inj h]
    rfl
  | none =>
    rw [exec_of_accepted hr] at h
    rw [exec_of_accepted ((refusal_withThrottle i r s).trans hr), ← Host.Outcome.next.inj h, runWalk,
      commandStart_withThrottle,
      walk_comm (f := State.withThrottle r) (fun _ _ => rfl) (fun _ _ => rfl) (fun _ => rfl)
        (commandEnd_withThrottle hi r)]
    rfl

/-- No end of an instruction issues a transaction; an evaluation notifies at most once (R118, R160). -/
theorem commandEnd_calls (i : Instr) (d : RawSample) (u : State) : Calls 0 1 u (commandEnd i d u) := by
  have hsilent : ∀ {t : State}, t.events = u.events → t.busIn = u.busIn → t.chanIn = u.chanIn → Calls 0 1 u t :=
    fun he hb hc => (Calls.silent he hb hc).mono le_rfl (Nat.zero_le 1)
  cases i with
  | init addr =>
    rw [commandEnd]
    split <;> exact hsilent rfl rfl rfl
  | eval sample => exact evaluate_calls Config.params sample 0#48 u
  | poll => exact evaluate_calls Config.params d d.pack (u.setSample d.pack)
  | rdreg rn =>
    show Calls 0 1 u ((readReg rn u.regs).elim _ _)
    cases readReg rn u.regs <;> exact hsilent rfl rfl rfl
  | _ => exact hsilent rfl rfl rfl

theorem Calls.no_bus {m : Nat} {s t : State} (h : Calls 0 m s t) :
    t.busIn = s.busIn ∧ ∃ es, t.events = s.events ++ es ∧ ∀ e ∈ es, isBusEvent e = false := by
  obtain ⟨bs, ns, he, hbs, -, hb, -, -, hn⟩ := h
  obtain rfl := List.eq_nil_of_length_eq_zero (Nat.le_zero.1 hbs)
  exact ⟨hb, ns, by simpa using he, hn⟩

/-- An instruction without a step list is its end alone. -/
theorem exec_of_no_steps {i : Instr} {s : State} (hr : refusal i s = none)
    (hsteps : stepList Config.params i = []) : exec i s = .next (commandEnd i default (commandStart i s)) := by
  rw [exec_of_accepted hr, runWalk, hsteps]
  rfl

/-- Settles O15: driver commands walk past the throttle registers, throttle commands are ends alone. -/
theorem driverAndThrottleAreSeparate : Obligations.DriverAndThrottleAreSeparate := by
  intro i s t h
  refine ⟨fun hi subd mand skip lax lay laz => ?_, fun hi => ?_⟩
  · exact exec_withThrottle hi { s.regs with subd := subd, mand := mand, skip := skip, lax := lax, lay := lay,
                                             laz := laz } h
  · have hend : exec i s = .next (commandEnd i default s) := by
      rcases hi with rfl | rfl | ⟨sample, rfl⟩ | ⟨rn, rfl⟩
      all_goals exact exec_of_no_steps rfl rfl
    rw [← Host.Outcome.next.inj (hend.symm.trans h)]
    exact (commandEnd_calls i default s).no_bus

/-! ## The bus traffic -/

theorem commandStart_events (i : Instr) (s : State) : (commandStart i s).events = s.events := by
  cases i <;> rfl

theorem evaluate_devaddr (P : Params) (sample : RawSample) (data : BitVec 48) (s : State) :
    (evaluate P sample data s).regs.devaddr = s.regs.devaddr := by
  obtain ⟨u, ⟨m, k, x, y, z, c, es, -, rfl⟩, st, d, h⟩ := evaluate_ends P sample data s
  rw [h]
  rfl

theorem commandEnd_devaddr (i : Instr) (d : RawSample) (u : State) :
    (commandEnd i d u).regs.devaddr = u.regs.devaddr := by
  cases i with
  | init addr =>
    rw [commandEnd]
    split <;> rfl
  | eval sample => exact evaluate_devaddr Config.params sample 0#48 u
  | poll => exact evaluate_devaddr Config.params d d.pack (u.setSample d.pack)
  | rdreg rn =>
    show ((readReg rn u.regs).elim _ _ : State).regs.devaddr = _
    cases readReg rn u.regs <;> rfl
  | _ => rfl

/-- The bus events `t` has more than `s` are the transactions `ops` with the answers `as`, at the address in `t`. -/
def BusTraffic (ops : List MicroOp) (as : List BusAnswer) (s t : State) : Prop :=
  (t.events.drop s.events.length).filter isBusEvent = eventsOf t.regs.devaddr ops as

theorem filter_isBusEvent_eventsOf (addr : BitVec 7) (ops : List MicroOp) (as : List BusAnswer) :
    (eventsOf addr ops as).filter isBusEvent = eventsOf addr ops as := by
  induction ops generalizing as with
  | nil => rfl
  | cons op ops ih =>
    obtain _ | ⟨a, as⟩ := as
    · rfl
    · exact congrArg (_ :: ·) (ih as)

/-- Transactions, then what issues none, at an address that stays. -/
theorem busTraffic_of_transactAll {ops : List MicroOp} {s s0 t : State} {m : Nat} (h0 : s0.events = s.events)
    (ht : Calls 0 m (transactAll ops s0) t) (haddr : t.regs.devaddr = (transactAll ops s0).regs.devaddr) :
    BusTraffic ops (answersTo ops s0) s t := by
  obtain ⟨-, ns, he, hn⟩ := ht.no_bus
  rw [transactAll_eq] at he haddr
  rw [BusTraffic, he, haddr, h0, List.append_assoc, List.drop_left, List.filter_append, filter_isBusEvent_eventsOf,
    List.filter_eq_nil_iff.2 fun e hmem => by simp [hn e hmem], List.append_nil]

theorem refusal_status {i : Instr} {s : State} {st : Status} (h : refusal i s = some st) :
    st = .notReady ∨ st = .illegalOperand := by
  have hunready : unready s = some st → st = .notReady := by
    unfold unready
    split
    · exact fun h => (Option.some.inj h).symm
    · nofun
  cases i with
  | rdacc | lpexit | poll => exact .inl (hunready h)
  | lpenter wf =>
    rw [refusal] at h
    split at h
    · exact .inl (hunready h)
    · exact .inr (Option.some.inj h).symm
  | _ => cases h

/-- Settles O16: a refused instruction issues nothing; a walk issues its list, all of it or up to the first failure. -/
theorem busTrafficFollowsStepList : Obligations.BusTrafficFollowsStepList := by
  intro i s
  cases hr : refusal i s with
  | some st =>
    refine ⟨_, 0, [], exec_of_refusal hr, Nat.zero_le _, rfl, ?_, nofun, nofun, fun _ _ => ⟨_, rfl, ?_⟩⟩
    · simp [eventsOf]
    · rcases refusal_status hr with rfl | rfl <;> decide
  | none =>
    rcases answersTo_cases (stepList Config.params i) (commandStart i s) with ⟨ds, h⟩ | ⟨ds, hk, h⟩
    · have htraffic := busTraffic_of_transactAll (commandStart_events i s) (commandEnd_calls i (ds.getLastD default) _)
        (commandEnd_devaddr i (ds.getLastD default) (transactAll (stepList Config.params i) (commandStart i s)))
      have hlen := congrArg List.length h
      rw [answersTo_length] at hlen
      rw [h] at htraffic
      refine ⟨_, (stepList Config.params i).length, _, exec_of_ok hr h, le_rfl, hlen.symm, ?_, fun k _ => ?_,
        fun _ hlt => absurd hlt (lt_irrefl _), fun h0 hne => absurd (List.eq_nil_of_length_eq_zero h0) hne⟩
      · rw [List.take_length]
        exact htraffic
      · simp
    · have htraffic := busTraffic_of_transactAll (commandStart_events i s)
        (ops := (stepList Config.params i).take (ds.length + 1)) (t := raise .busError .none 0#48 _)
        (Calls.silent rfl rfl rfl) rfl
      rw [h] at htraffic
      refine ⟨_, ds.length + 1, _, exec_of_fail hr hk h, hk, by simp, htraffic, fun k hlt => ?_,
        fun _ _ => List.getLast?_concat, nofun⟩
      rw [List.getElem?_append_left (by simpa using hlt)]
      simp

/-! ## The commands as their micro-operations -/

/-- Micro-operations on their own, all answered `ok`, are the transactions of a list. -/
theorem execAll_microInstr_of_ok {ops : List MicroOp} {s : State} {ds : List RawSample}
    (h : answersTo ops s = ds.map .ok) : execAll (ops.map microInstr) s = .next (transactAll ops s) := by
  induction ops generalizing s ds with
  | nil => rfl
  | cons op ops ih =>
    obtain _ | ⟨d, ds⟩ := ds
    · cases h
    · obtain ⟨ha, hrest⟩ := answersTo_cons_eq_ok h
      have hop : exec (microInstr op) s = .next (transact op s).2 := by rw [exec_microInstr, ha]
      rw [List.map_cons, execAll, hop]
      exact ih hrest

/-- When the last of them is the first to fail, its `BusError` comes last (R45, R46, R190). -/
theorem execAll_microInstr_of_fail {ops : List MicroOp} {s : State} {ds : List RawSample}
    (h : answersTo ops s = ds.map .ok ++ [.fail]) :
    execAll (ops.map microInstr) s = .next (raise .busError .none 0#48 (transactAll ops s)) := by
  induction ops generalizing s ds with
  | nil => cases ds <;> cases h
  | cons op ops ih =>
    obtain _ | ⟨d, ds⟩ := ds
    · obtain ⟨ha, hrest⟩ := List.cons.inj h
      have hnil : ops = [] := List.eq_nil_of_length_eq_zero (by rw [← answersTo_length ops, hrest]; rfl)
      have hop : exec (microInstr op) s = .next (raise .busError .none 0#48 (transact op s).2) := by
        rw [exec_microInstr, ha]
      rw [hnil, List.map_cons, execAll, hop]
      rfl
    · obtain ⟨ha, hrest⟩ := answersTo_cons_eq_ok h
      have hop : exec (microInstr op) s = .next (transact op s).2 := by rw [exec_microInstr, ha]
      rw [List.map_cons, execAll, hop]
      exact ih hrest

/-- Settles O17: the command's walk and its micro-operations meet the same answers from the same start. -/
theorem driverCommandsAreTheirMicroOps : Obligations.DriverCommandsAreTheirMicroOps := by
  intro i s s0 hi
  have hstart : refusal i s = none ∧ commandStart i s = s0 := by
    rcases hi with ⟨addr, rfl, rfl⟩ | ⟨hdrv, hi, rfl⟩
    · exact ⟨rfl, rfl⟩
    · refine ⟨refusal_of_ready hdrv (hi.imp_right (Or.imp_right .inr)), ?_⟩
      rcases hi with rfl | rfl | ⟨wf, -, rfl⟩ <;> rfl
  obtain ⟨hr, rfl⟩ := hstart
  refine ⟨fun ds hk h => ⟨_, execAll_microInstr_of_fail h, exec_of_fail hr hk h⟩, fun ds d h => ?_⟩
  have h' : answersTo (stepList Config.params i) (commandStart i s) = (ds ++ [d]).map .ok := by
    rw [h, List.map_append]
    rfl
  refine ⟨_, execAll_microInstr_of_ok h', ?_⟩
  rw [exec_of_ok hr h', List.getLastD_concat]
  rcases hi with ⟨addr, rfl, -⟩ | ⟨-, rfl | rfl | ⟨wf, -, rfl⟩, -⟩
  · rfl
  · rw [← responseWord_ok_none]
    rfl
  · rfl
  · rfl

end Sys2Proof.Machine
end

section
/-! SUPPORT. The decoder of the samples: a 16-bit axis value in terms of its two bytes, and its range
(spec/41_decoder_classifier.md rules R130 to R132). -/

namespace Sys2Proof.Machine

/-- An axis value in raw units is a 16-bit two's complement integer (R130, R133). -/
def IsAxis (v : Int) : Prop := -32768 ≤ v ∧ v ≤ 32767

theorem isAxis_toInt (v : BitVec 16) : IsAxis v.toInt :=
  ⟨BitVec.le_toInt v, Int.le_of_lt_add_one BitVec.toInt_lt⟩

theorem isAxis_s16 (h l : Byte) : IsAxis (s16 h l) := isAxis_toInt (h ++ l)

theorem s16_eq (h l : Byte) : s16 h l = 256 * h.toInt + l.toNat := BitVec.toInt_append

/-- The physical value of an axis lies in [-FS_G, FS_G) whatever the range FS_G of the sensor is (R132). -/
theorem physical_bounds {P : Params} (hP : 0 < P.fsG) {v : Int} (hv : IsAxis v) :
    -P.fsG ≤ physical P v ∧ physical P v < P.fsG := by
  have hlo : (-32768 : Rat) ≤ v := by exact_mod_cast hv.1
  have hhi : (v : Rat) < 32768 := by exact_mod_cast Int.lt_of_le_of_lt hv.2 (by decide)
  rw [physical, le_div_iff₀ (by decide), div_lt_iff₀ (by decide), neg_mul_comm, mul_comm P.fsG, mul_comm P.fsG]
  exact ⟨mul_le_mul_of_nonneg_right hlo hP.le, mul_lt_mul_of_pos_right hhi hP⟩

/-- Settles O46: the sign of the axis is the sign of its high byte. -/
theorem decodedAxes : Obligations.DecodedAxes := by
  refine ⟨fun h l => ?formula, fun _ => rfl, fun h l => ⟨(isAxis_s16 h l).1, (isAxis_s16 h l).2, ?physical⟩⟩
  case formula =>
    rw [s16_eq, BitVec.toInt_eq_toNat_cond]
    split <;> split <;> omega
  case physical => exact physical_bounds (by simp) (isAxis_s16 h l)

end Sys2Proof.Machine
end

section
/-! SUPPORT. The squared magnitude: Lagrange's identity, what follows from it, and the bounds on 16-bit axis values
(spec/41_decoder_classifier.md rules R134 to R136). -/

namespace Sys2Proof.Machine

/-! ## Algebra -/

/-- The scalar product of two vectors. -/
def dot (a b : AccelVec) : Int := a.x * b.x + a.y * b.y + a.z * b.z

/-- The squared length of a vector. -/
def normSq (a : AccelVec) : Int := dot a a

theorem mag2_eq (a b : AccelVec) :
    mag2 a b = (cross a b).x * (cross a b).x + (cross a b).y * (cross a b).y + (cross a b).z * (cross a b).z := rfl

/-- Lagrange's identity (R136). -/
theorem mag2_eq_normSq_mul_sub (a b : AccelVec) : mag2 a b = normSq a * normSq b - dot a b * dot a b := by
  simp only [mag2, cross, normSq, dot]
  ring

theorem normSq_nonneg (a : AccelVec) : 0 ≤ normSq a :=
  add_nonneg (add_nonneg (mul_self_nonneg _) (mul_self_nonneg _)) (mul_self_nonneg _)

theorem mag2_nonneg (a b : AccelVec) : 0 ≤ mag2 a b := normSq_nonneg (cross a b)

theorem mag2_le_normSq_mul (a b : AccelVec) : mag2 a b ≤ normSq a * normSq b := by
  rw [mag2_eq_normSq_mul_sub]
  exact sub_le_self _ (mul_self_nonneg _)

theorem dot_comm (a b : AccelVec) : dot a b = dot b a := by
  simp only [dot, mul_comm]

theorem mag2_comm (a b : AccelVec) : mag2 a b = mag2 b a := by
  rw [mag2_eq_normSq_mul_sub, mag2_eq_normSq_mul_sub, dot_comm a b, mul_comm (normSq a)]

theorem mag2_eq_zero_of_cross {a b : AccelVec} (h : cross a b = ⟨0, 0, 0⟩) : mag2 a b = 0 := by
  rw [mag2_eq, h]
  rfl

theorem mag2_self (a : AccelVec) : mag2 a a = 0 :=
  mag2_eq_zero_of_cross (by simp [cross, mul_comm])

theorem mag2_zero (a : AccelVec) : mag2 a ⟨0, 0, 0⟩ = 0 :=
  mag2_eq_zero_of_cross (by simp [cross])

/-- A component of the cross product vanishes where the second vector is a multiple of the first. -/
theorem component_eq_zero_of_multiple {p q u v u' v' : Int} (hp : p ≠ 0) (hu : p * u' = q * u) (hv : p * v' = q * v) :
    u * v' - v * u' = 0 := by
  have hmul : p * (u * v' - v * u') = 0 := by linear_combination u * hv - v * hu
  exact (mul_eq_zero.1 hmul).resolve_left hp

theorem mag2_eq_zero_of_multiple {a b : AccelVec} {p q : Int} (hp : p ≠ 0) (hx : p * b.x = q * a.x)
    (hy : p * b.y = q * a.y) (hz : p * b.z = q * a.z) : mag2 a b = 0 := by
  apply mag2_eq_zero_of_cross
  rw [cross, component_eq_zero_of_multiple hp hy hz, component_eq_zero_of_multiple hp hz hx,
    component_eq_zero_of_multiple hp hx hy]

/-- Settles O48: parallel vectors have a vanishing cross product; Lagrange's identity gives the symmetry. -/
theorem magnitudeAlgebra : Obligations.MagnitudeAlgebra := fun a b =>
  ⟨mag2_comm a b, mag2_self a, mag2_zero a, fun _ _ hp hx hy hz => mag2_eq_zero_of_multiple hp hx hy hz,
    mag2_eq_normSq_mul_sub a b⟩

/-! ## Bounds -/

/-- The three components of a decoded vector are 16-bit values. -/
def IsRaw (a : AccelVec) : Prop := IsAxis a.x ∧ IsAxis a.y ∧ IsAxis a.z

theorem IsAxis.mul_bounds {u v : Int} (hu : IsAxis u) (hv : IsAxis v) :
    -1073709056 ≤ u * v ∧ u * v ≤ 1073741824 := by
  obtain ⟨hu0, hu1⟩ := hu
  obtain ⟨hv0, hv1⟩ := hv
  constructor <;> nlinarith

/-- Each component of CROSS has this form, with four independent factors (R134). -/
theorem component_bounds {u v w t : Int} (hu : IsAxis u) (hv : IsAxis v) (hw : IsAxis w) (ht : IsAxis t) :
    -2147450880 ≤ u * v - w * t ∧ u * v - w * t ≤ 2147450880 := by
  have huv := hu.mul_bounds hv
  have hwt := hw.mul_bounds ht
  omega

theorem cross_bounds {a b : AccelVec} (ha : IsRaw a) (hb : IsRaw b) :
    ∀ c ∈ [(cross a b).x, (cross a b).y, (cross a b).z], -2147450880 ≤ c ∧ c ≤ 2147450880 := by
  obtain ⟨hax, hay, haz⟩ := ha
  obtain ⟨hbx, hby, hbz⟩ := hb
  simp only [List.forall_mem_cons]
  exact ⟨component_bounds hay hbz haz hby, component_bounds haz hbx hax hbz, component_bounds hax hby hay hbx, nofun⟩

theorem component_sq_le {c : Int} (hc : -2147450880 ≤ c ∧ c ≤ 2147450880) : c * c ≤ 4611545282012774400 := by
  have hsq : c ^ 2 ≤ 2147450880 ^ 2 := sq_le_sq' hc.1 hc.2
  rwa [sq] at hsq

theorem mag2_le {a b : AccelVec} (ha : IsRaw a) (hb : IsRaw b) : mag2 a b ≤ 13834635846038323200 := by
  have hsq := fun c hc => component_sq_le (cross_bounds ha hb c hc)
  have hx := hsq (cross a b).x (by simp)
  have hy := hsq (cross a b).y (by simp)
  have hz := hsq (cross a b).z (by simp)
  rw [mag2_eq]
  omega

theorem normSq_le {a : AccelVec} (ha : IsRaw a) : normSq a ≤ 3 * 2 ^ 30 := by
  obtain ⟨hx, hy, hz⟩ := ha
  have hxx := hx.mul_bounds hx
  have hyy := hy.mul_bounds hy
  have hzz := hz.mul_bounds hz
  rw [normSq, dot]
  omega

/-- The sharper bound, by Lagrange's identity (R135). -/
theorem mag2_le_nine_mul {a b : AccelVec} (ha : IsRaw a) (hb : IsRaw b) : mag2 a b ≤ 9 * 2 ^ 60 :=
  calc mag2 a b ≤ normSq a * normSq b := mag2_le_normSq_mul a b
    _ ≤ (3 * 2 ^ 30) * (3 * 2 ^ 30) := mul_le_mul (normSq_le ha) (normSq_le hb) (normSq_nonneg b) (by norm_num)
    _ = 9 * 2 ^ 60 := by norm_num

/-- Settles O47: the bounds of the products give those of the components, of their squares and of the sum. -/
theorem crossAndMagnitudeBounds : Obligations.CrossAndMagnitudeBounds := by
  refine ⟨fun u v hu0 hu1 hv0 hv1 => IsAxis.mul_bounds ⟨hu0, hu1⟩ ⟨hv0, hv1⟩, fun a b hrange => ?_, by decide⟩
  have ha : IsRaw a := ⟨hrange a.x (by simp), hrange a.y (by simp), hrange a.z (by simp)⟩
  have hb : IsRaw b := ⟨hrange b.x (by simp), hrange b.y (by simp), hrange b.z (by simp)⟩
  refine ⟨fun c hc => ?_, mag2_eq a b, mag2_nonneg a b, mag2_le ha hb, mag2_le_nine_mul ha hb⟩
  have hbounds := cross_bounds ha hb c hc
  exact ⟨hbounds.1, hbounds.2, component_sq_le hbounds⟩

end Sys2Proof.Machine
end

section
/-! SUPPORT. The threshold of LARGE: where it stands among the integers, and that 5 degrees put it there
(spec/41_decoder_classifier.md rules R137 to R139). -/

namespace Sys2Proof.Machine

theorem large_iff (a b : AccelVec) : large Config.params a b = true ↔ 628023312898483455 < mag2 a b :=
  decide_eq_true_iff

theorem large_eq_false_iff (a b : AccelVec) : large Config.params a b = false ↔ mag2 a b ≤ 628023312898483455 := by
  rw [← Bool.not_eq_true, large_iff, not_lt]

/-! ## Equality with the threshold -/

/-- A sum of three squares is never 7 modulo 8. -/
theorem three_squares_ne_seven : ∀ x y z : ZMod 8, x * x + y * y + z * z ≠ 7 := by decide

theorem mag2_ne_threshold (a b : AccelVec) : mag2 a b ≠ 628023312898483455 := by
  intro h
  have hmod : ((mag2 a b : Int) : ZMod 8) = 7 := by
    rw [h]
    decide
  rw [mag2_eq] at hmod
  push_cast at hmod
  exact three_squares_ne_seven _ _ _ hmod

/-- Settles O50: the threshold is 7 modulo 8. -/
theorem thresholdIsNeverMet : Obligations.ThresholdIsNeverMet := fun a b => ⟨large_iff a b, mag2_ne_threshold a b⟩

/-! ## Vectors of length 1 g -/

/-- Settles O51: MAG2 is at most the product of the squared lengths. -/
theorem oneGravityIsNeverLarge : Obligations.OneGravityIsNeverLarge := by
  refine ⟨fun a b ha hb => ?_, ⟨by decide, ?above⟩, by decide, ?below⟩
  · have hle : mag2 a b ≤ 2 ^ 56 :=
      calc mag2 a b ≤ normSq a * normSq b := mag2_le_normSq_mul a b
        _ = (16384 * 16384) * (16384 * 16384) := congrArg₂ (· * ·) ha hb
        _ = 2 ^ 56 := by norm_num
    exact ⟨hle, (large_eq_false_iff a b).2 (hle.trans (by norm_num))⟩
  case above => exact (large_iff _ _).2 (by decide)
  case below => exact (large_eq_false_iff _ _).2 (by decide)

/-! ## The sine of 5 degrees -/

/-- The squared sine of the tripled angle, in the sine `q` of an angle. -/
def tripleSinSq (q : Real) : Real := (3 * q - 4 * q ^ 3) ^ 2

theorem tripleSinSq_sin (x : Real) : tripleSinSq (Real.sin x) = Real.sin (3 * x) ^ 2 := by
  rw [tripleSinSq, Real.sin_three_mul]

/-- It grows with the angle up to 30 degrees, the sine of which is one half. -/
theorem tripleSinSq_strictMonoOn : StrictMonoOn tripleSinSq (Set.Icc 0 (1 / 2)) := by
  rintro a ⟨ha, -⟩ b ⟨-, hb⟩ hab
  have hgrows : 3 * a - 4 * a ^ 3 < 3 * b - 4 * b ^ 3 := by
    have hslope : 0 < 3 - 4 * (b ^ 2 + b * a + a ^ 2) := by nlinarith
    linear_combination mul_pos (sub_pos.2 hab) hslope
  have hnonneg : 0 ≤ 3 * a - 4 * a ^ 3 := by
    have hfactor : 0 ≤ 3 - 4 * a ^ 2 := by nlinarith
    linear_combination mul_nonneg ha hfactor
  exact pow_lt_pow_left₀ hgrows hnonneg two_ne_zero

/-- The sine of 15 degrees, from the cosine of 30. -/
theorem tripleSinSq_sin_five_degrees : tripleSinSq (Real.sin (5 * (Real.pi / 180))) = (2 - √3) / 4 := by
  have hcos := Real.cos_two_mul_eq_one_sub (3 * (5 * (Real.pi / 180)))
  rw [show 2 * (3 * (5 * (Real.pi / 180))) = Real.pi / 6 by ring, Real.cos_pi_div_six] at hcos
  rw [tripleSinSq_sin]
  linear_combination hcos / 2

theorem sin_five_degrees_mem : Real.sin (5 * (Real.pi / 180)) ∈ Set.Icc (0 : Real) (1 / 2) := by
  have hpi := Real.pi_pos
  constructor
  · exact Real.sin_nonneg_of_nonneg_of_le_pi (by linarith) (by linarith)
  · rw [← Real.sin_pi_div_six]
    exact Real.sin_le_sin_of_le_of_le_pi_div_two (by linarith) (by linarith) (by linarith)

theorem lt_sin_five_degrees {q : Real} (hq : q ∈ Set.Icc (0 : Real) (1 / 2)) (h : √3 < 2 - 4 * tripleSinSq q) :
    q < Real.sin (5 * (Real.pi / 180)) := by
  rw [← tripleSinSq_strictMonoOn.lt_iff_lt hq sin_five_degrees_mem, tripleSinSq_sin_five_degrees]
  linarith

theorem sin_five_degrees_lt {q : Real} (hq : q ∈ Set.Icc (0 : Real) (1 / 2)) (h : 2 - 4 * tripleSinSq q < √3) :
    Real.sin (5 * (Real.pi / 180)) < q := by
  rw [← tripleSinSq_strictMonoOn.lt_iff_lt sin_five_degrees_mem hq, tripleSinSq_sin_five_degrees]
  linarith

/-- The real value of R137 for FS_G = 2 between two consecutive integers, by comparing rationals with √3. -/
theorem threshold_bounds :
    628023312898483455 < 100 * Real.sin (5 * (Real.pi / 180)) * 2 ^ 56 ∧
      100 * Real.sin (5 * (Real.pi / 180)) * 2 ^ 56 < 628023312898483456 := by
  have hlo : 628023312898483455 / (100 * 2 ^ 56) < Real.sin (5 * (Real.pi / 180)) :=
    lt_sin_five_degrees (by norm_num) ((Real.sqrt_lt' (by norm_num [tripleSinSq])).2 (by norm_num [tripleSinSq]))
  have hhi : Real.sin (5 * (Real.pi / 180)) < 628023312898483456 / (100 * 2 ^ 56) :=
    sin_five_degrees_lt (by norm_num) (Real.lt_sqrt_of_sq_lt (by norm_num [tripleSinSq]))
  constructor <;> linarith

/-! ## The floor -/

theorem floor_of_strictly_between {v : Real} {n : Int} (hlo : (n : Real) < v) (hhi : v < n + 1) :
    ⌊v⌋ = n ∧ (n : Real) ≠ v ∧ ∀ m : Int, v < m ↔ n < m := by
  have hfloor : ⌊v⌋ = n := Int.floor_eq_iff.2 ⟨hlo.le, hhi⟩
  exact ⟨hfloor, hlo.ne, fun m => by rw [← hfloor, Int.floor_lt]⟩

/-- Settles O49: the bounds for FS_G = 2 give those of the other ranges, since the integer above the threshold is a
multiple of 4096. -/
theorem thresholdIsTheFloor : Obligations.ThresholdIsTheFloor := by
  refine ⟨⟨Config.params_fsG, Config.params_threshRaw⟩, fun p hp => ?_⟩
  obtain ⟨hlo, hhi⟩ := threshold_bounds
  obtain ⟨hpos, hplo, hphi⟩ : 0 < p.1 ^ 4 ∧ (p.2 : Real) < 100 * Real.sin (5 * (Real.pi / 180)) * 2 ^ 60 / p.1 ^ 4 ∧
      100 * Real.sin (5 * (Real.pi / 180)) * 2 ^ 60 / p.1 ^ 4 < p.2 + 1 := by
    simp only [List.mem_cons, List.not_mem_nil, or_false] at hp
    rcases hp with rfl | rfl | rfl | rfl <;> refine ⟨by norm_num, ?_, ?_⟩ <;> push_cast <;> linarith
  obtain ⟨hfloor, hne, hiff⟩ := floor_of_strictly_between hplo hphi
  refine ⟨hfloor, hne, fun m => ?_⟩
  rw [← hiff m, lt_div_iff₀ (by norm_num), div_lt_iff₀ hpos]

end Sys2Proof.Machine
end

section
/-! SUPPORT. The datapath at the hardware's widths against the integers (spec/41_decoder_classifier.md rule R140). -/

namespace Sys2Proof.Machine

theorem toInt_prod32 (u v : BitVec 16) : (prod32 u v).toInt = u.toInt * v.toInt := by
  have hbounds := (isAxis_toInt u).mul_bounds (isAxis_toInt v)
  have hprod : prod32 u v = BitVec.ofInt 32 (u.toInt * v.toInt) := (BitVec.ofInt_mul _ _).symm
  rw [hprod]
  exact BitVec.toInt_ofInt_eq_self (by decide) (by omega) (by omega)

theorem toInt_diff33 (p q : BitVec 32) : (diff33 p q).toInt = p.toInt - q.toInt := by
  have hp := BitVec.le_toInt p
  have hp' := BitVec.toInt_lt (x := p)
  have hq := BitVec.le_toInt q
  have hq' := BitVec.toInt_lt (x := q)
  rw [diff33, BitVec.toInt_sub, BitVec.toInt_signExtend_of_le (by decide), BitVec.toInt_signExtend_of_le (by decide)]
  exact Int.bmod_eq_of_le (by omega) (by omega)

theorem square64_eq (c : BitVec 33) : square64 c = BitVec.ofInt 64 (c.toInt * c.toInt) := (BitVec.ofInt_mul _ _).symm

theorem mag2Datapath_eq_ofInt (ax ay az bx by' bz : BitVec 16) :
    mag2Datapath ax ay az bx by' bz =
      BitVec.ofInt 64 (mag2 ⟨ax.toInt, ay.toInt, az.toInt⟩ ⟨bx.toInt, by'.toInt, bz.toInt⟩) := by
  simp only [mag2Datapath, square64_eq, toInt_diff33, toInt_prod32, ← BitVec.ofInt_add, mag2_eq, cross]

/-- An integer in the range of a 64-bit word is the unsigned value of its word. -/
theorem toNat_mag2Datapath (ax ay az bx by' bz : BitVec 16) :
    ((mag2Datapath ax ay az bx by' bz).toNat : Int)
      = mag2 ⟨ax.toInt, ay.toInt, az.toInt⟩ ⟨bx.toInt, by'.toInt, bz.toInt⟩ := by
  have hlo := mag2_nonneg ⟨ax.toInt, ay.toInt, az.toInt⟩ ⟨bx.toInt, by'.toInt, bz.toInt⟩
  have hhi := mag2_le (a := ⟨ax.toInt, ay.toInt, az.toInt⟩) (b := ⟨bx.toInt, by'.toInt, bz.toInt⟩)
    ⟨isAxis_toInt ax, isAxis_toInt ay, isAxis_toInt az⟩ ⟨isAxis_toInt bx, isAxis_toInt by', isAxis_toInt bz⟩
  rw [mag2Datapath_eq_ofInt, BitVec.toNat_ofInt]
  omega

/-- Settles O52: no width cuts a result, so the words are the integers, and their comparisons agree. -/
theorem datapathIsExact : Obligations.DatapathIsExact := by
  intro ax ay az bx by' bz
  have hmag := toNat_mag2Datapath ax ay az bx by' bz
  refine ⟨hmag, ?_⟩
  rw [large_iff, ← hmag, BitVec.lt_def, Config.params_threshRaw, BitVec.toNat_ofNat]
  omega

end Sys2Proof.Machine
end

section
/-! SUPPORT. One evaluation: when a send is due, and the state each of its three outcomes leaves; the statements about
SUB and EVAL follow from these (spec/42_throttle.md rules R151, R154 to R161). -/

namespace Sys2Proof.Machine

/-! ## The decision -/

theorem largeMotion_iff (sample : RawSample) (r : Regs) :
    largeMotion Config.params sample r = true ↔ 628023312898483455 < mag2 (decodeSample sample) (lastAccepted r) :=
  large_iff _ _

theorem raisedMand_eq (sample : RawSample) (r : Regs) :
    raisedMand Config.params sample r =
      if 628023312898483455 < mag2 (decodeSample sample) (lastAccepted r) then max r.mand.toNat 4
      else r.mand.toNat := by
  simp only [raisedMand, largeMotion_iff, Config.params_mandMotion]

/-- The three reasons for a send (R158). -/
def SendDue (sample : RawSample) (r : Regs) : Prop :=
  0 < r.mand.toNat ∨ 628023312898483455 < mag2 (decodeSample sample) (lastAccepted r) ∨ 50 ≤ r.skip.toNat

theorem sendDecision_iff (sample : RawSample) (r : Regs) :
    sendDecision Config.params sample r = true ↔ SendDue sample r := by
  have hcap := Config.params_skipCap
  simp only [sendDecision, Bool.or_eq_true, decide_eq_true_eq, largeMotion_iff, raisedMand_eq, SendDue]
  split <;> omega

theorem not_sendDue_iff (sample : RawSample) (r : Regs) :
    ¬ SendDue sample r ↔ r.mand = 0#3 ∧
      mag2 (decodeSample sample) (lastAccepted r) ≤ 628023312898483455 ∧ r.skip.toNat < 50 := by
  simp only [SendDue, not_or, not_lt, Nat.le_zero, not_le, BitVec.toNat_eq, BitVec.toNat_ofNat, Nat.zero_mod]

/-! ## The three outcomes -/

theorem evaluate_of_inert {P : Params} {sample : RawSample} {s : State} (h : s.regs.subd = 0#1) (data : BitVec 48) :
    evaluate P sample data s = complete .inert data s :=
  if_pos h

theorem subd_ne_zero {s : State} (h : s.regs.subd = 1#1) : s.regs.subd ≠ 0#1 := by simp [h]

theorem evaluate_of_skip {P : Params} {sample : RawSample} {s : State} (h : s.regs.subd = 1#1)
    (hskip : sendDecision P sample s.regs = false) (data : BitVec 48) :
    evaluate P sample data s = complete .skip data (skipSample P s) := by
  rw [evaluate, if_neg (subd_ne_zero h), hskip]
  rfl

theorem evaluate_of_send {P : Params} {sample : RawSample} {s : State} (h : s.regs.subd = 1#1)
    (hsend : sendDecision P sample s.regs = true) (data : BitVec 48) :
    evaluate P sample data s =
      raise (sendStatus (chanAnswer sample s)) .send data (notify sample (acceptSample P sample s)).2 := by
  rcases evaluate_cases P sample data s with ⟨h0, -⟩ | ⟨-, hskip, -⟩ | ⟨-, -, ha, heval⟩ | ⟨-, -, ha, heval⟩
  · exact absurd h0 (subd_ne_zero h)
  · rw [hsend] at hskip
    cases hskip
  all_goals
    rw [heval, ha]
    rfl

theorem subd_cases (s : State) : s.regs.subd = 0#1 ∨ s.regs.subd = 1#1 := BitVec.eq_zero_or_eq_one _

/-- Below the cap the skip count goes up by one (R159). -/
theorem skipSample_eq {s : State} (h : s.regs.skip.toNat < 50) :
    skipSample Config.params s = { s with regs := { s.regs with skip := s.regs.skip + 1#6 } } := by
  have hmin : min (s.regs.skip.toNat + 1) Config.params.skipCap = s.regs.skip.toNat + 1 := min_eq_left h
  rw [skipSample, hmin, BitVec.ofNat_add, BitVec.ofNat_toNat, BitVec.setWidth_eq]
  rfl

/-- The register writes of a send (R160). -/
theorem acceptSample_eq (P : Params) (sample : RawSample) (s : State) :
    acceptSample P sample s = { s with regs := { s.regs with
      mand := BitVec.ofNat 3 (raisedMand P sample s.regs - 1)
      skip := 0#6
      lax := sample.b0 ++ sample.b1
      lay := sample.b2 ++ sample.b3
      laz := sample.b4 ++ sample.b5 } } := by
  simp only [acceptSample, decodeSample, ofInt_s16]
  rfl

/-- Settles O22: each of the three outcomes with the state it leaves. -/
theorem evalSemantics : Obligations.EvalSemantics := by
  intro sample s
  refine ⟨fun hsubd => ?inert, fun hsubd hmand hquiet hskip => ?skip, fun hsubd hdue => ?send⟩
  case inert => exact congrArg Host.Outcome.next (evaluate_of_inert hsubd 0#48)
  case skip =>
    have hno : sendDecision Config.params sample s.regs = false := by
      rw [← Bool.not_eq_true, sendDecision_iff, not_sendDue_iff]
      exact ⟨hmand, hquiet, hskip⟩
    rw [exec, execEval, runEval, evaluate_of_skip hsubd hno, skipSample_eq hskip]
    rfl
  case send =>
    have hanswer : chanAnswer sample (acceptSample Config.params sample s) = chanAnswer sample s :=
      chanAnswer_congr rfl rfl sample
    rw [exec, execEval, runEval, evaluate_of_send hsubd ((sendDecision_iff sample s.regs).2 hdue), notify, hanswer,
      acceptSample_eq, ← raisedMand_eq]
    cases chanAnswer sample s <;> rfl

/-- Settles O20: the sentinel has no motion against any sample, so the send is due to MAND alone. -/
theorem subRearms : Obligations.SubRearms := by
  intro s
  refine ⟨_, rfl, rfl, fun sample => ?_⟩
  set t : State := { s with
    regs := { s.regs with subd := 1#1, skip := 0#6, mand := 5#3, lax := 0#16, lay := 0#16, laz := 0#16,
                          err := 0#4 }
    responses := s.responses ++ [0x0000000000000000#64] }
  have hquiet : mag2 (decodeSample sample) (lastAccepted t.regs) = 0 := mag2_zero _
  have hanswer : chanAnswer sample t = chanAnswer sample s := chanAnswer_congr rfl rfl sample
  have hle : mag2 (decodeSample sample) (lastAccepted t.regs) ≤ 628023312898483455 := by omega
  obtain ⟨-, -, hsend⟩ := evalSemantics sample t
  have heval := hsend rfl (.inl (by simp [t]))
  rw [hanswer, if_neg hle.not_gt] at heval
  exact ⟨(large_eq_false_iff _ _).2 hle, heval⟩

end Sys2Proof.Machine
end

section
/-! SUPPORT. POLL as a burst read and an evaluation, what an instruction can notify, and the throttle while inert
(spec/42_throttle.md rules R152, R165 to R168; spec/30_encoding.md rule R86). -/

namespace Sys2Proof.Machine

/-! ## POLL -/

/-- `s` after a burst read that delivered `sample` (R107, R165). -/
def blockRead (sample : RawSample) (s : State) : State :=
  { s with
    regs := { s.regs with sample := sample.pack, seq := 1#4 }
    busIn := s.busIn.tail
    events := s.events ++ [.bus s.regs.devaddr (.read Config.params.regAccelBase .six) (.ok sample.bytes)] }

@[simp] theorem blockRead_events (sample : RawSample) (s : State) :
    (blockRead sample s).events =
      s.events ++ [.bus s.regs.devaddr (.read Config.params.regAccelBase .six) (.ok sample.bytes)] := rfl

theorem exec_poll_of_ready {s : State} (hdrv : s.regs.drv ≠ 0#2) :
    exec .poll s = .next (readAndEvaluate Config.params s) :=
  congrArg Host.Outcome.next (if_neg hdrv)

theorem exec_poll_of_ok {s : State} {sample : RawSample} (hdrv : s.regs.drv ≠ 0#2)
    (h : busAnswer (.read Config.params.regAccelBase .six) s = .ok sample) :
    exec .poll s = .next (evaluate Config.params sample sample.pack (blockRead sample s)) := by
  rcases readBlock_cases Config.params s with ⟨r, hr, hblock⟩ | ⟨hr, -⟩ <;> rw [h] at hr <;> cases hr
  rw [exec_poll_of_ready hdrv, readAndEvaluate, hblock]
  rfl

/-- Settles O24. -/
theorem pollBusFailure : Obligations.PollBusFailure := by
  intro s hdrv h
  rcases readBlock_cases Config.params s with ⟨r, hr, -⟩ | ⟨-, hblock⟩
  · rw [h] at hr
    cases hr
  · rw [exec_poll_of_ready hdrv, readAndEvaluate, hblock]
    rfl

/-- Settles O25. -/
theorem pollInert : Obligations.PollInert := by
  intro s sample hdrv hsubd h
  have hinert : (blockRead sample s).regs.subd = 0#1 := hsubd
  rw [exec_poll_of_ok hdrv h, evaluate_of_inert hinert]
  show Host.Outcome.next (raise .ok .inert sample.pack _) = _
  rw [raise, respond, responseWord_eq_or]
  rfl

/-- An evaluation ends in one response, which alone depends on the data to be answered (R165). -/
theorem evaluate_answers (P : Params) (sample : RawSample) (s : State) :
    ∃ st d u, u.responses = s.responses ∧ ∀ data, evaluate P sample data s = raise st d data u := by
  rcases subd_cases s with h | h
  · exact ⟨_, _, _, rfl, evaluate_of_inert h⟩
  · cases hs : sendDecision P sample s.regs with
    | false => exact ⟨.ok, .skip, skipSample P s, rfl, evaluate_of_skip h hs⟩
    | true => exact ⟨_, .send, (notify sample (acceptSample P sample s)).2, rfl, evaluate_of_send h hs⟩

/-- Settles O23: POLL and EVAL make the same evaluation, and their responses differ in the data alone. -/
theorem pollIsReadThenEval : Obligations.PollIsReadThenEval := by
  refine ⟨fun s hdrv => exec_of_unready hdrv (.inr (.inr (.inl rfl))), fun s sample hdrv h => ?_⟩
  obtain ⟨st, d, u, hresp, heval⟩ := evaluate_answers Config.params sample (blockRead sample s)
  have hresp' : u.responses = s.responses := hresp
  refine ⟨raise st d 0#48 u, responseWord st d 0#48, congrArg Host.Outcome.next (heval 0#48), ?_, ?_⟩
  · rw [raise_responses, hresp']
  · rw [exec_poll_of_ok hdrv h, heval, raise, respond, responseWord_eq_or, State.setErr_responses, hresp']
    rfl

/-! ## Notifications -/

/-- An evaluation notifies of its own sample, which is then the last accepted, or of nothing (R160). -/
theorem evaluate_events (P : Params) (sample : RawSample) (data : BitVec 48) (s : State) :
    (evaluate P sample data s).events = s.events ∨
      ∃ a, (evaluate P sample data s).events = s.events ++ [.notify sample a] ∧
        lastAccepted (evaluate P sample data s).regs = decodeSample sample := by
  rcases subd_cases s with h | h
  · rw [evaluate_of_inert h]
    exact .inl rfl
  · cases hs : sendDecision P sample s.regs with
    | false =>
      rw [evaluate_of_skip h hs]
      exact .inl rfl
    | true =>
      rw [evaluate_of_send h hs]
      exact .inr ⟨_, rfl, lastAccepted_acceptSample P sample s⟩

/-- What an instruction can do: it is refused, stops at a transaction that failed, or reaches its end (R77, R101,
R102, R195). -/
theorem exec_cases {i : Instr} {s t : State} (h : exec i s = .next t) :
    (∃ st, t = raise st .none 0#48 s) ∨
      (∃ n, t = raise .busError .none 0#48 (transactAll ((stepList Config.params i).take n) (commandStart i s))) ∨
      ∃ d, t = commandEnd i d (transactAll (stepList Config.params i) (commandStart i s)) := by
  cases hr : refusal i s with
  | some st => exact .inl ⟨st, (Host.Outcome.next.inj ((exec_of_refusal hr).symm.trans h)).symm⟩
  | none =>
    rcases answersTo_cases (stepList Config.params i) (commandStart i s) with ⟨ds, hds⟩ | ⟨ds, hk, hds⟩
    · exact .inr (.inr ⟨_, (Host.Outcome.next.inj ((exec_of_ok hr hds).symm.trans h)).symm⟩)
    · exact .inr (.inl ⟨_, (Host.Outcome.next.inj ((exec_of_fail hr hk hds).symm.trans h)).symm⟩)

/-- The instructions that evaluate a sample (R150). -/
def evaluates (i : Instr) : Bool :=
  match i with
  | .eval _ | .poll => true
  | _ => false

theorem commandEnd_events {i : Instr} (hi : evaluates i = false) (d : RawSample) (u : State) :
    (commandEnd i d u).events = u.events := by
  cases i with
  | eval | poll => cases hi
  | init addr =>
    rw [commandEnd]
    split <;> rfl
  | rdreg rn =>
    show ((readReg rn u.regs).elim _ _ : State).events = _
    cases readReg rn u.regs <;> rfl
  | _ => rfl

theorem notify_not_mem_eventsOf (b : RawSample) (a : ChanAnswer) (addr : BitVec 7) (ops : List MicroOp)
    (as : List BusAnswer) : .notify b a ∉ eventsOf addr ops as := by
  rw [← filter_isBusEvent_eventsOf]
  simp [isBusEvent]

theorem drop_transactAll_events (ops : List MicroOp) (i : Instr) (s : State) :
    (transactAll ops (commandStart i s)).events.drop s.events.length =
      eventsOf (commandStart i s).regs.devaddr ops (answersTo ops (commandStart i s)) := by
  rw [transactAll_eq, commandStart_events, List.drop_left]

/-- Only EVAL and POLL notify (R168). -/
theorem notify_not_mem_of_not_evaluates {i : Instr} {s t : State} (hi : evaluates i = false)
    (h : exec i s = .next t) (b : RawSample) (a : ChanAnswer) : .notify b a ∉ t.events.drop s.events.length := by
  rcases exec_cases h with ⟨st, rfl⟩ | ⟨n, rfl⟩ | ⟨d, rfl⟩
  · simp
  · rw [raise_events, drop_transactAll_events]
    exact notify_not_mem_eventsOf _ _ _ _ _
  · rw [commandEnd_events hi, drop_transactAll_events]
    exact notify_not_mem_eventsOf _ _ _ _ _

theorem evaluate_sample (P : Params) (sample : RawSample) (data : BitVec 48) (s : State) :
    (evaluate P sample data s).regs.sample = s.regs.sample := by
  obtain ⟨u, ⟨m, k, x, y, z, c, es, -, rfl⟩, st, d, h⟩ := evaluate_ends P sample data s
  rw [h]
  rfl

/-- A POLL that notifies read the bytes it notifies (R168). -/
theorem exec_poll_notify {s t : State} {b : RawSample} {a : ChanAnswer} (h : exec .poll s = .next t)
    (hmem : .notify b a ∈ t.events.drop s.events.length) :
    lastAccepted t.regs = decodeSample b ∧ t.regs.sample = b.pack ∧
      t.events = s.events ++ [.bus s.regs.devaddr (.read Config.params.regAccelBase .six) (.ok b.bytes),
        .notify b a] := by
  by_cases hdrv : s.regs.drv = 0#2
  · obtain rfl := Host.Outcome.next.inj ((exec_of_unready hdrv (.inr (.inr (.inl rfl)))).symm.trans h)
    simp at hmem
  cases ha : busAnswer (.read Config.params.regAccelBase .six) s with
  | fail =>
    obtain rfl := Host.Outcome.next.inj ((pollBusFailure s hdrv ha).symm.trans h)
    simp at hmem
  | ok sample =>
    obtain rfl := Host.Outcome.next.inj ((exec_poll_of_ok hdrv ha).symm.trans h)
    rcases evaluate_events Config.params sample sample.pack (blockRead sample s) with he | ⟨c, he, hlast⟩
    · simp [he] at hmem
    · obtain ⟨rfl, rfl⟩ : b = sample ∧ a = c := by simpa [he] using hmem
      exact ⟨hlast, evaluate_sample _ _ _ _, by simp [he]⟩

/-- Settles O26: an evaluation notifies of its own sample, and that of POLL is the one its read delivered. -/
theorem notificationIsSampleEvaluated : Obligations.NotificationIsSampleEvaluated := by
  intro i s t b a h hmem
  cases hi : evaluates i with
  | false => exact absurd hmem (notify_not_mem_of_not_evaluates hi h b a)
  | true =>
    cases i with
    | eval sample =>
      obtain rfl : evaluate Config.params sample 0#48 s = t := Host.Outcome.next.inj h
      rcases evaluate_events Config.params sample 0#48 s with he | ⟨c, he, hlast⟩
      · simp [he] at hmem
      · obtain ⟨rfl, rfl⟩ : b = sample ∧ a = c := by simpa [he] using hmem
        exact ⟨hlast, .inl rfl⟩
    | poll =>
      obtain ⟨hlast, hsample, he⟩ := exec_poll_notify h hmem
      exact ⟨hlast, .inr ⟨rfl, hsample, he⟩⟩
    | _ => cases hi

/-! ## The throttle while inert -/

/-- `s` with the counters and the last accepted sample of `r`. -/
def State.withCounters (r : Regs) (s : State) : State :=
  { s with regs := { s.regs with mand := r.mand, skip := r.skip, lax := r.lax, lay := r.lay, laz := r.laz } }

/-- SUB and UNSUB alone write SUBD (R11). -/
theorem exec_subd {i : Instr} {s t : State} (hs : i ≠ .sub) (hu : i ≠ .unsub) (h : exec i s = .next t) :
    t.regs.subd = s.regs.subd := by
  have hl := (exec_frame h).listed
  cases i with
  | sub => exact absurd rfl hs
  | unsub => exact absurd rfl hu
  | _ => exact (congrArg Regs.subd hl).trans rfl

/-- Without a SUB an inert throttle stays inert (R152). -/
theorem exec_subd_of_inert {i : Instr} {s t : State} (hsubd : s.regs.subd = 0#1) (hi : i ≠ .sub)
    (h : exec i s = .next t) : t.regs.subd = 0#1 := by
  by_cases hu : i = .unsub
  · subst hu
    exact Host.Outcome.next.inj h ▸ rfl
  · rw [exec_subd hi hu h, hsubd]

/-- While inert POLL does not notice the counters. -/
theorem exec_poll_withCounters {s t : State} (hsubd : s.regs.subd = 0#1) (r : Regs) (h : exec .poll s = .next t) :
    exec .poll (s.withCounters r) = .next (t.withCounters r) := by
  by_cases hdrv : s.regs.drv = 0#2
  · have hrefused : ∀ u : State, u.regs.drv = 0#2 → exec .poll u = .next (raise .notReady .none 0#48 u) :=
      fun u hu => exec_of_unready hu (.inr (.inr (.inl rfl)))
    rw [hrefused _ hdrv] at h
    rw [← Host.Outcome.next.inj h]
    exact hrefused (s.withCounters r) hdrv
  cases ha : busAnswer (.read Config.params.regAccelBase .six) s with
  | fail =>
    rw [pollBusFailure s hdrv ha] at h
    rw [← Host.Outcome.next.inj h]
    exact pollBusFailure (s.withCounters r) hdrv ha
  | ok sample =>
    rw [pollInert s sample hdrv hsubd ha] at h
    rw [← Host.Outcome.next.inj h]
    exact pollInert (s.withCounters r) sample hdrv hsubd ha

theorem exec_microInstr_withCounters {op : MicroOp} {s t : State} (r : Regs)
    (h : exec (microInstr op) s = .next t) :
    exec (microInstr op) (s.withCounters r) = .next (t.withCounters r) := by
  have ha : busAnswer op (s.withCounters r) = busAnswer op s := busAnswer_congr rfl rfl rfl op
  rw [exec_microInstr] at h ⊢
  rw [← Host.Outcome.next.inj h, ha]
  cases busAnswer op s <;> rfl

/-- A driver command does not notice the counters (R118). -/
theorem exec_driver_withCounters {i : Instr} (hi : IsDriverCommand i) {s t : State} (hsubd : t.regs.subd = s.regs.subd)
    (r : Regs) (h : exec i s = .next t) : exec i (s.withCounters r) = .next (t.withCounters r) := by
  have hthrottle := exec_withThrottle hi { r with subd := s.regs.subd } h
  have ht : t.withThrottle { r with subd := s.regs.subd } = t.withCounters r := by
    rw [State.withThrottle, State.withCounters, ← hsubd]
  rw [← ht]
  exact hthrottle

/-- While inert no instruction but SUB and RDREG notices the counters or changes them (R152). -/
theorem exec_withCounters {i : Instr} {s t : State} (hsubd : s.regs.subd = 0#1) (hs : i ≠ .sub)
    (hr : ∀ rn, i ≠ .rdreg rn) (r : Regs) (h : exec i s = .next t) :
    exec i (s.withCounters r) = .next (t.withCounters r) := by
  have hkept : t.regs.subd = s.regs.subd := (exec_subd_of_inert hsubd hs h).trans hsubd.symm
  cases i with
  | init addr => exact exec_driver_withCounters (.inl ⟨addr, rfl⟩) hkept r h
  | rdacc => exact exec_driver_withCounters (.inr (.inl rfl)) hkept r h
  | lpenter wf => exact exec_driver_withCounters (.inr (.inr (.inl ⟨wf, rfl⟩))) hkept r h
  | lpexit => exact exec_driver_withCounters (.inr (.inr (.inr rfl))) hkept r h
  | sub => exact absurd rfl hs
  | unsub => exact Host.Outcome.next.inj h ▸ rfl
  | eval sample =>
    have hinert : ∀ u : State, u.regs.subd = 0#1 → exec (.eval sample) u = .next (complete .inert 0#48 u) :=
      fun u hu => congrArg Host.Outcome.next (evaluate_of_inert hu 0#48)
    rw [hinert s hsubd] at h
    rw [← Host.Outcome.next.inj h]
    exact hinert (s.withCounters r) hsubd
  | poll => exact exec_poll_withCounters hsubd r h
  | rdreg rn => exact absurd rfl (hr rn)
  | busWrite reg val => exact exec_microInstr_withCounters (op := .write reg val) r h
  | busRead reg len => exact exec_microInstr_withCounters (op := .read reg len) r h

/-- Settles O21: SUBD alone is tested while it is clear, and SUB writes all the counters. -/
theorem unsubDisarms : Obligations.UnsubDisarms := by
  refine ⟨fun s => rfl, fun s hsubd => ⟨fun sample => ?_, fun mand skip lax lay laz i u h => ?_⟩⟩
  · exact (evalSemantics sample s).1 hsubd
  · refine ⟨fun hs => exec_subd_of_inert hsubd hs h, fun hs hr => ?_, fun hs => ?_⟩
    · exact exec_withCounters hsubd hs hr
        { s.regs with mand := mand, skip := skip, lax := lax, lay := lay, laz := laz } h
    · subst hs
      exact h ▸ rfl

end Sys2Proof.Machine
end

section
/-! SUPPORT. Sequences of evaluations: what one evaluation makes of the counters, and the cadences that follow
(spec/42_throttle.md rules R162 to R164). -/

namespace Sys2Proof.Machine

/-! ## One evaluation in a sequence -/

@[simp] theorem responseDecision_responseWord (st : Status) (d : Decision) (data : BitVec 48) :
    responseDecision (responseWord st d data) = d.code := by
  apply BitVec.eq_of_getLsbD_eq
  intro i hi
  have hw : (responseWord st d data).getLsbD (56 + i)
      = BitVec.getLsbD (w := 4 + 4 + 8 + 48) (st.code ++ d.code ++ 0#8 ++ data) (56 + i) := rfl
  simp only [responseDecision, BitVec.getLsbD_extractLsb', hw, BitVec.getLsbD_append, hi, decide_true, Bool.true_and]
  rw [if_neg (by omega), if_neg (by omega), if_pos (by omega)]
  congr 1
  omega

/-- `t` is `s` after an evaluation while subscribed: the decision answered, and the throttle it leaves. -/
structure Decided (s t : State) (decision : BitVec 4) (mand skip : Nat) (last : AccelVec) : Prop where
  decisions : t.responses.map responseDecision = s.responses.map responseDecision ++ [decision]
  subd : t.regs.subd = 1#1
  mand : t.regs.mand.toNat = mand
  skip : t.regs.skip.toNat = skip
  last : lastAccepted t.regs = last

theorem exec_eval_of_send {s : State} {sample : RawSample} (hsubd : s.regs.subd = 1#1)
    (hdue : SendDue sample s.regs) :
    ∃ t, exec (.eval sample) s = .next t ∧
      Decided s t 3#4 (raisedMand Config.params sample s.regs - 1) 0 (decodeSample sample) := by
  have hle : raisedMand Config.params sample s.regs ≤ max s.regs.mand.toNat 4 := raisedMand_le _ _ _
  have hlt := s.regs.mand.isLt
  obtain ⟨-, -, heval⟩ := evalSemantics sample s
  refine ⟨_, heval hsubd hdue, ?_, hsubd, ?_, rfl, rfl⟩
  · rw [List.map_append]
    cases chanAnswer sample s <;> rfl
  · rw [← raisedMand_eq, BitVec.toNat_ofNat]
    exact Nat.mod_eq_of_lt (by omega)

theorem exec_eval_of_skip {s : State} {sample : RawSample} (hsubd : s.regs.subd = 1#1)
    (hskip : ¬ SendDue sample s.regs) :
    ∃ t, exec (.eval sample) s = .next t ∧ Decided s t 2#4 0 (s.regs.skip.toNat + 1) (lastAccepted s.regs) := by
  obtain ⟨hmand, hquiet, hcap⟩ := (not_sendDue_iff _ _).1 hskip
  obtain ⟨-, heval, -⟩ := evalSemantics sample s
  refine ⟨_, heval hsubd hmand hquiet hcap, ?_, hsubd, ?_, ?_, rfl⟩
  · rw [List.map_append]
    rfl
  · exact congrArg BitVec.toNat hmand
  · exact Nat.mod_eq_of_lt (show s.regs.skip.toNat + 1 < 2 ^ 6 by omega)

/-- An evaluation below threshold is sent while a send is mandatory and when the floor is reached, and skipped
otherwise (R158 to R160). -/
theorem exec_eval_quiet {s : State} {sample : RawSample} (hsubd : s.regs.subd = 1#1)
    (hquiet : mag2 (decodeSample sample) (lastAccepted s.regs) ≤ 628023312898483455) :
    ∃ t, exec (.eval sample) s = .next t ∧
      if 0 < s.regs.mand.toNat ∨ 50 ≤ s.regs.skip.toNat then
        Decided s t 3#4 (s.regs.mand.toNat - 1) 0 (decodeSample sample)
      else Decided s t 2#4 0 (s.regs.skip.toNat + 1) (lastAccepted s.regs) := by
  have hraised : raisedMand Config.params sample s.regs = s.regs.mand.toNat := by
    rw [raisedMand_eq, if_neg hquiet.not_gt]
  have hdue : SendDue sample s.regs ↔ 0 < s.regs.mand.toNat ∨ 50 ≤ s.regs.skip.toNat := by
    unfold SendDue
    omega
  split
  · next h => exact hraised ▸ exec_eval_of_send hsubd (hdue.2 h)
  · next h => exact exec_eval_of_skip hsubd (mt hdue.1 h)

theorem exec_eval_quiet_of_mand {s : State} {sample : RawSample} (hsubd : s.regs.subd = 1#1)
    (hquiet : mag2 (decodeSample sample) (lastAccepted s.regs) ≤ 628023312898483455) (hmand : 0 < s.regs.mand.toNat) :
    ∃ t, exec (.eval sample) s = .next t ∧ Decided s t 3#4 (s.regs.mand.toNat - 1) 0 (decodeSample sample) := by
  simpa only [if_pos (Or.inl hmand)] using exec_eval_quiet hsubd hquiet

/-! ## Motion burst and repeated samples -/

/-- Settles O28: the triggering evaluation leaves MAND at 3, and each of the next counts it down. -/
theorem motionBurst : Obligations.MotionBurst := by
  intro s v v1 v2 v3 v4 hsubd hmand hlarge h1 h2 h3 h4
  have hraised : raisedMand Config.params v s.regs = 4 := by
    rw [raisedMand_eq, if_pos hlarge, hmand]
    rfl
  obtain ⟨t, he, ht⟩ := exec_eval_of_send hsubd (.inr (.inl hlarge))
  rw [hraised] at ht
  obtain ⟨t1, he1, ht1⟩ := exec_eval_quiet_of_mand (sample := v1) ht.subd (ht.last ▸ h1) (by simp [ht.mand])
  obtain ⟨t2, he2, ht2⟩ := exec_eval_quiet_of_mand (sample := v2) ht1.subd (ht1.last ▸ h2) (by simp [ht1.mand, ht.mand])
  obtain ⟨t3, he3, ht3⟩ := exec_eval_quiet_of_mand (sample := v3) ht2.subd (ht2.last ▸ h3)
    (by simp [ht2.mand, ht1.mand, ht.mand])
  have hmand3 : t3.regs.mand.toNat = 0 := by simp [ht3.mand, ht2.mand, ht1.mand, ht.mand]
  obtain ⟨t4, he4, ht4⟩ := exec_eval_quiet (sample := v4) ht3.subd (ht3.last ▸ h4)
  rw [if_neg (by simp [hmand3, ht3.skip])] at ht4
  refine ⟨t, t4, he, BitVec.eq_of_toNat_eq ht.mand, ?_, ?_, BitVec.eq_of_toNat_eq ht4.mand, BitVec.eq_of_toNat_eq ?_⟩
  · simp only [execAll, he1, he2, he3, he4]
  · rw [ht4.decisions, ht3.decisions, ht2.decisions, ht1.decisions, ht.decisions]
    simp
  · rw [ht4.skip, ht3.skip]
    rfl

/-- Settles O29: the sample stays below threshold, against the last accepted or against itself. -/
theorem skippingRepeats : Obligations.SkippingRepeats := by
  intro s v hsubd hmand hquiet
  have hmand0 : s.regs.mand.toNat = 0 := congrArg BitVec.toNat hmand
  obtain ⟨t1, he1, ht1⟩ := exec_eval_quiet hsubd hquiet
  by_cases hfloor : 50 ≤ s.regs.skip.toNat
  · rw [if_pos (.inr hfloor)] at ht1
    have hquiet1 : mag2 (decodeSample v) (lastAccepted t1.regs) ≤ 628023312898483455 := by
      rw [ht1.last, mag2_self]
      decide
    obtain ⟨t2, he2, ht2⟩ := exec_eval_quiet ht1.subd hquiet1
    rw [if_neg (by rw [ht1.mand, ht1.skip]; omega)] at ht2
    refine ⟨t1, t2, 3#4, 2#4, he1, he2, ?_, by omega, by omega, fun _ => rfl⟩
    rw [ht2.decisions, ht1.decisions, List.append_assoc]
    rfl
  · rw [if_neg (by omega)] at ht1
    obtain ⟨t2, he2, ht2⟩ := exec_eval_quiet ht1.subd (ht1.last ▸ hquiet)
    by_cases hfloor1 : 50 ≤ t1.regs.skip.toNat
    · rw [if_pos (.inr hfloor1)] at ht2
      rw [ht1.skip] at hfloor1
      refine ⟨t1, t2, 2#4, 3#4, he1, he2, ?_, by omega, fun _ => ⟨rfl, rfl⟩, by omega⟩
      rw [ht2.decisions, ht1.decisions, List.append_assoc]
      rfl
    · rw [if_neg (by rw [ht1.mand]; omega), ht1.skip] at ht2
      rw [ht1.skip] at hfloor1
      refine ⟨t1, t2, 2#4, 2#4, he1, he2, ?_, fun _ => ⟨rfl, rfl, ht1.skip, ht2.skip⟩, by omega, by omega⟩
      rw [ht2.decisions, ht1.decisions, List.append_assoc]
      rfl

/-! ## The cadence below threshold -/

theorem execAll_concat {is : List Instr} {i : Instr} {s t : State} (h : execAll is s = .next t) :
    execAll (is ++ [i]) s = exec i t := by
  induction is generalizing s with
  | nil =>
    obtain rfl := Host.Outcome.next.inj h
    rw [List.nil_append, execAll]
    cases exec i s <;> rfl
  | cons j is ih =>
    obtain ⟨u, hu⟩ := exec_next j s
    simp only [execAll, hu] at h
    simp only [List.cons_append, execAll, hu]
    exact ih h

/-- The decision of evaluation `k` (from 0) after SUB, all below threshold (R162). -/
def cadenceDecision (k : Nat) : BitVec 4 := if k < 5 ∨ (k - 4) % 51 = 0 then 3#4 else 2#4

/-- The state `n` evaluations after SUB, all below threshold (R162). -/
structure Cadence (s : State) (n : Nat) (t : State) : Prop where
  decisions : t.responses.map responseDecision =
    s.responses.map responseDecision ++ 0#4 :: (List.range n).map cadenceDecision
  subd : t.regs.subd = 1#1
  mand : t.regs.mand.toNat = 5 - n
  skip : t.regs.skip.toNat = (n - 5) % 51

theorem cadence_sub (s : State) : Cadence s 0 (runSub Config.params s) :=
  ⟨by simp [runSub]; rfl, rfl, rfl, rfl⟩

theorem Cadence.next {s t u : State} {n m k : Nat} {d : BitVec 4} {last : AccelVec} (h : Cadence s n t)
    (hu : Decided t u d m k last) (hd : cadenceDecision n = d) (hm : m = 5 - (n + 1)) (hk : k = (n + 1 - 5) % 51) :
    Cadence s (n + 1) u :=
  ⟨by rw [hu.decisions, h.decisions, List.range_succ, List.map_append, List.map_singleton, hd, List.append_assoc,
      List.cons_append], hu.subd, hu.mand.trans hm, hu.skip.trans hk⟩

/-- One evaluation more: it is sent while MAND counts down and when SKIP has reached 50. -/
theorem Cadence.eval {s t : State} {n : Nat} {sample : RawSample} (h : Cadence s n t)
    (hquiet : mag2 (decodeSample sample) (lastAccepted t.regs) ≤ 628023312898483455) :
    ∃ u, exec (.eval sample) t = .next u ∧ Cadence s (n + 1) u := by
  have hmand := h.mand
  have hskip := h.skip
  obtain ⟨u, he, hu⟩ := exec_eval_quiet h.subd hquiet
  refine ⟨u, he, ?_⟩
  split at hu
  · exact h.next hu (if_pos (by omega)) (by omega) (by omega)
  · exact h.next hu (if_neg (by omega)) (by omega) (by omega)

/-- Settles O27: from SUB on, each evaluation goes one step further in the cadence. -/
theorem belowThresholdCadence : Obligations.BelowThresholdCadence := by
  intro s vs hquiet
  suffices h : ∃ t, execAll (.sub :: vs.map .eval) s = .next t ∧ Cadence s vs.length t by
    obtain ⟨t, ht, hc⟩ := h
    refine ⟨t, ht, hc.decisions, hc.mand, hc.skip.trans ?_⟩
    split <;> omega
  induction vs using List.reverseRecOn with
  | nil => exact ⟨_, rfl, cadence_sub s⟩
  | append_singleton vs v ih =>
    obtain ⟨t, ht, hc⟩ := ih fun k hk t hrun => by
      have hq := hquiet k (by simp; omega) t
      rw [List.take_append_of_le_length hk.le, List.getElem_append_left hk] at hq
      exact hq hrun
    have hq := hquiet vs.length (by simp) t
    rw [List.take_left, List.getElem_concat_length rfl] at hq
    obtain ⟨u, hu, hc'⟩ := hc.eval (hq ht)
    refine ⟨u, ?_, by simpa using hc'⟩
    rw [List.map_append, List.map_singleton, ← List.cons_append, execAll_concat ht, hu]

end Sys2Proof.Machine
end

section
/-! SUPPORT. The keep-alive floor: how many samples may still be skipped before one is sent, and what each step makes of
that number (spec/42_throttle.md rules R158, R159; spec/95_test_vectors.md section 6, property 3). -/

namespace Sys2Proof.Machine

/-- How many samples may still be skipped before a SEND: none while inert, since SUB comes first and makes sends
mandatory, and none while a send is mandatory. -/
def skipBudget (r : Regs) : Nat := if r.subd = 1#1 ∧ r.mand = 0#3 then 50 - r.skip.toNat else 0

theorem skipBudget_le (r : Regs) : skipBudget r ≤ 50 := by
  unfold skipBudget
  split <;> omega

theorem skipBudget_eq {r : Regs} (hsubd : r.subd = 1#1) (hmand : r.mand = 0#3) :
    skipBudget r = 50 - r.skip.toNat :=
  if_pos ⟨hsubd, hmand⟩

/-! ## What a step makes of the budget -/

/-- `t` is `s` after at most one response; short of a SEND the budget does not grow, and a SKIP takes one from it. -/
def Paced (s t : State) : Prop :=
  (t.responses = s.responses ∧ skipBudget t.regs ≤ skipBudget s.regs) ∨
    ∃ w, t.responses = s.responses ++ [w] ∧
      (responseDecision w ≠ 3#4 → [responseDecision w].count 2#4 + skipBudget t.regs ≤ skipBudget s.regs)

/-- What gives no response and leaves the budget may come before. -/
theorem Paced.of_silent {s u t : State} (h : Paced u t) (hr : u.responses = s.responses)
    (hb : skipBudget u.regs = skipBudget s.regs) : Paced s t := by
  simpa only [Paced, hr, hb] using h

theorem respond_paced {s u : State} (hr : u.responses = s.responses) (hb : skipBudget u.regs ≤ skipBudget s.regs)
    (st : Status) {d : Decision} (hd : d = .none ∨ d = .inert) (data : BitVec 48) :
    Paced s (respond st d data u) := by
  refine .inr ⟨_, by rw [respond_responses, hr], fun _ => ?_⟩
  rw [responseDecision_responseWord]
  rcases hd with rfl | rfl <;> simpa [Decision.code] using hb

theorem raise_paced {s u : State} (hr : u.responses = s.responses) (hb : skipBudget u.regs ≤ skipBudget s.regs)
    (st : Status) {d : Decision} (hd : d = .none ∨ d = .inert) (data : BitVec 48) : Paced s (raise st d data u) :=
  respond_paced (u := u.setErr st.code) hr hb st hd data

theorem skipSample_budget {sample : RawSample} {s : State} (hsubd : s.regs.subd = 1#1)
    (h : ¬ SendDue sample s.regs) : skipBudget (skipSample Config.params s).regs + 1 = skipBudget s.regs := by
  obtain ⟨hmand, -, hcap⟩ := (not_sendDue_iff _ _).1 h
  have hskip : (s.regs.skip + 1#6).toNat = s.regs.skip.toNat + 1 :=
    Nat.mod_eq_of_lt (show s.regs.skip.toNat + 1 < 2 ^ 6 by omega)
  have hnext : skipBudget (skipSample Config.params s).regs = 50 - (s.regs.skip + 1#6).toNat := by
    rw [skipSample_eq hcap]
    exact skipBudget_eq hsubd hmand
  rw [hnext, skipBudget_eq hsubd hmand, hskip]
  omega

theorem skip_paced {sample : RawSample} {s : State} (hsubd : s.regs.subd = 1#1) (h : ¬ SendDue sample s.regs)
    (data : BitVec 48) : Paced s (complete .skip data (skipSample Config.params s)) := by
  have hbudget := skipSample_budget hsubd h
  refine .inr ⟨_, rfl, fun _ => ?_⟩
  rw [responseDecision_responseWord]
  show 1 + skipBudget (skipSample Config.params s).regs ≤ skipBudget s.regs
  omega

theorem evaluate_paced (sample : RawSample) (data : BitVec 48) (s : State) :
    Paced s (evaluate Config.params sample data s) := by
  rcases subd_cases s with h | h
  · rw [evaluate_of_inert h]
    exact raise_paced rfl le_rfl _ (.inr rfl) _
  · cases hs : sendDecision Config.params sample s.regs with
    | false =>
      rw [evaluate_of_skip h hs]
      exact skip_paced h (by rw [← sendDecision_iff, hs]; exact Bool.false_ne_true) data
    | true =>
      rw [evaluate_of_send h hs]
      exact .inr ⟨_, rfl, fun hne => absurd (responseDecision_responseWord _ _ _) hne⟩

theorem commandEnd_paced (i : Instr) (d : RawSample) (u : State) : Paced u (commandEnd i d u) := by
  cases i with
  | init addr =>
    rw [commandEnd]
    split <;> exact raise_paced rfl le_rfl _ (.inl rfl) _
  | rdacc | lpenter | lpexit => exact raise_paced rfl le_rfl _ (.inl rfl) _
  | sub | unsub =>
    apply raise_paced
    · rfl
    · exact Nat.zero_le _
    · exact .inl rfl
  | eval sample => exact evaluate_paced sample 0#48 u
  | poll => exact (evaluate_paced d d.pack (u.setSample d.pack)).of_silent rfl rfl
  | rdreg rn =>
    show Paced u ((readReg rn u.regs).elim _ _)
    cases readReg rn u.regs <;> exact respond_paced rfl le_rfl _ (.inl rfl) _
  | busWrite | busRead => exact .inl ⟨rfl, le_rfl⟩

/-- What comes before the end of an instruction gives no response and leaves the throttle. -/
theorem transactAll_commandStart_silent (ops : List MicroOp) (i : Instr) (s : State) :
    (transactAll ops (commandStart i s)).responses = s.responses ∧
      skipBudget (transactAll ops (commandStart i s)).regs = skipBudget s.regs := by
  rw [transactAll_eq]
  cases i <;> exact ⟨rfl, rfl⟩

theorem exec_paced {i : Instr} {s t : State} (h : exec i s = .next t) : Paced s t := by
  rcases exec_cases h with ⟨st, rfl⟩ | ⟨n, rfl⟩ | ⟨d, rfl⟩
  · exact raise_paced rfl le_rfl _ (.inl rfl) _
  · obtain ⟨hr, hb⟩ := transactAll_commandStart_silent ((stepList Config.params i).take n) i s
    exact raise_paced hr hb.le _ (.inl rfl) _
  · obtain ⟨hr, hb⟩ := transactAll_commandStart_silent (stepList Config.params i) i s
    exact (commandEnd_paced i d _).of_silent hr hb

theorem refuse_paced {r : Reject} {s t : State} (h : refuse r s = .next t) : Paced s t := by
  cases r with
  | illegalCommand => exact Host.Outcome.next.inj h ▸ raise_paced rfl le_rfl _ (.inl rfl) _
  | illegalOperand => exact Host.Outcome.next.inj h ▸ raise_paced rfl le_rfl _ (.inl rfl) _
  | illegalRdreg => exact Host.Outcome.next.inj h ▸ respond_paced rfl le_rfl _ (.inl rfl) _
  | malformedTransfer => cases h

theorem serveEncoding_paced {e : Encoding} {s t : State} (h : serveEncoding e s = .next t) : Paced s t := by
  cases hd : decodeEncoding e with
  | ok i => exact exec_paced (serveEncoding_ok hd s ▸ h)
  | error r => exact refuse_paced (serveEncoding_error hd s ▸ h)

/-- Reset, while idle or during a command, gives no response and leaves the throttle inert (R220, R221). -/
theorem step_paced {s t : State} (h : step s = .next t) : Paced s t := by
  rcases hin : s.inputs with _ | ⟨e | _ | ⟨w, calls⟩, rest⟩
  · rw [stepRunsTheDecodedInstruction.2 s hin] at h
    exact Host.Outcome.next.inj h ▸ .inl ⟨rfl, le_rfl⟩
  · rw [step_present hin] at h
    exact (serveEncoding_paced h).of_silent rfl rfl
  · have hs : coreReset { s with inputs := rest } = t := by simpa [step, hin, serve] using h
    exact hs ▸ .inl ⟨rfl, Nat.zero_le _⟩
  · have hs : serveCut w calls { s with inputs := rest } = .next t := by simpa [step, hin, serve] using h
    unfold serveCut at hs
    split at hs
    · exact Host.Outcome.next.inj hs ▸ .inl ⟨rfl, Nat.zero_le _⟩
    · cases hs
    · cases hs

/-! ## Runs -/

/-- Decisions made from a state with `budget` samples to skip: without a SEND at most `budget` SKIP come at the
beginning, and at most 50 in a row anywhere. -/
structure WithinBudget (budget : Nat) (ds : List (BitVec 4)) : Prop where
  start : ∀ seg, seg <+: ds → 3#4 ∉ seg → seg.count 2#4 ≤ budget
  anywhere : ∀ seg, seg <:+: ds → 3#4 ∉ seg → seg.count 2#4 ≤ 50

theorem withinBudget_nil (budget : Nat) : WithinBudget budget [] := by
  constructor
  · intro seg hseg _
    simp [List.prefix_nil.1 hseg]
  · intro seg hseg _
    simp [List.infix_nil.1 hseg]

theorem WithinBudget.mono {b b' : Nat} {ds : List (BitVec 4)} (h : WithinBudget b ds) (hb : b ≤ b') :
    WithinBudget b' ds :=
  ⟨fun seg hseg hsend => (h.start seg hseg hsend).trans hb, h.anywhere⟩

theorem WithinBudget.cons {b b' : Nat} {d : BitVec 4} {ds : List (BitVec 4)} (h : WithinBudget b ds) (hb' : b' ≤ 50)
    (hd : d ≠ 3#4 → [d].count 2#4 + b ≤ b') : WithinBudget b' (d :: ds) := by
  have hstart : ∀ seg, seg <+: d :: ds → 3#4 ∉ seg → seg.count 2#4 ≤ b' := by
    intro seg hseg hsend
    rcases List.prefix_cons_iff.1 hseg with rfl | ⟨rest, rfl, hrest⟩
    · simp
    · obtain ⟨hne, hsend⟩ : d ≠ 3#4 ∧ 3#4 ∉ rest := by simpa [eq_comm] using hsend
      calc (d :: rest).count 2#4 = [d].count 2#4 + rest.count 2#4 := List.count_append (l₁ := [d])
        _ ≤ [d].count 2#4 + b := Nat.add_le_add_left (h.start rest hrest hsend) _
        _ ≤ b' := hd hne
  refine ⟨hstart, fun seg hseg hsend => ?_⟩
  rcases List.infix_cons_iff.1 hseg with hseg | hseg
  · exact (hstart seg hseg hsend).trans hb'
  · exact h.anywhere seg hseg hsend

theorem runSteps_withinBudget {n : Nat} {s t : State} (h : runSteps n s = .next t) :
    ∃ rs, t.responses = s.responses ++ rs ∧ WithinBudget (skipBudget s.regs) (rs.map responseDecision) := by
  induction n generalizing s with
  | zero =>
    obtain rfl := Host.Outcome.next.inj h
    exact ⟨[], (List.append_nil _).symm, withinBudget_nil _⟩
  | succ n ih =>
    rw [runSteps] at h
    split at h
    · next u hu =>
      obtain ⟨rs, hrs, hwithin⟩ := ih h
      rcases step_paced hu with ⟨hresp, hb⟩ | ⟨w, hresp, hb⟩
      · exact ⟨rs, by rw [hrs, hresp], hwithin.mono hb⟩
      · exact ⟨w :: rs, by rw [hrs, hresp, List.append_assoc]; rfl, hwithin.cons (skipBudget_le _) hb⟩
    · cases h
    · cases h

/-- While subscribed a list of EVAL makes decisions of which one is a SEND, or the budget covers them all. -/
theorem execAll_eval_sends (vs : List RawSample) {s : State} (hsubd : s.regs.subd = 1#1) :
    ∃ t ds, execAll (vs.map .eval) s = .next t ∧
      t.responses.map responseDecision = s.responses.map responseDecision ++ ds ∧
      (3#4 ∈ ds ∨ vs.length ≤ skipBudget s.regs) := by
  induction vs generalizing s with
  | nil => exact ⟨s, [], rfl, (List.append_nil _).symm, .inr (Nat.zero_le _)⟩
  | cons v vs ih =>
    by_cases hdue : SendDue v s.regs
    · obtain ⟨u, he, hu⟩ := exec_eval_of_send hsubd hdue
      obtain ⟨t, ds, ht, hds, -⟩ := ih hu.subd
      refine ⟨t, 3#4 :: ds, ?_, ?_, .inl List.mem_cons_self⟩
      · simpa only [List.map_cons, execAll, he] using ht
      · rw [hds, hu.decisions, List.append_assoc]
        rfl
    · obtain ⟨u, he, hu⟩ := exec_eval_of_skip hsubd hdue
      obtain ⟨t, ds, ht, hds, hsend⟩ := ih hu.subd
      obtain ⟨hmand, -, hcap⟩ := (not_sendDue_iff _ _).1 hdue
      have hbudget : skipBudget s.regs = skipBudget u.regs + 1 := by
        rw [skipBudget_eq hsubd hmand, skipBudget_eq hu.subd (BitVec.eq_of_toNat_eq hu.mand), hu.skip]
        omega
      refine ⟨t, 2#4 :: ds, ?_, ?_, ?_⟩
      · simpa only [List.map_cons, execAll, he] using ht
      · rw [hds, hu.decisions, List.append_assoc]
        rfl
      · rw [hbudget]
        exact hsend.imp (List.mem_cons_of_mem _) Nat.succ_le_succ

/-- Settles O30: a SKIP takes one from a budget of at most 50 that only a SEND restores. -/
theorem atMostFiftySkipsInARow : Obligations.AtMostFiftySkipsInARow := by
  constructor
  · intro n s t h ds hds hsend
    obtain ⟨rs, hrs, hwithin⟩ := runSteps_withinBudget h
    rw [hrs, List.drop_left] at hds
    exact hwithin.anywhere ds hds hsend
  · intro s vs hsubd hlen
    obtain ⟨t, ds, ht, hds, hsend⟩ := execAll_eval_sends vs hsubd
    have hbudget := skipBudget_le s.regs
    have hmem : 3#4 ∈ (t.responses.drop s.responses.length).map responseDecision := by
      rw [List.map_drop, hds, List.drop_left' (List.length_map _)]
      exact hsend.resolve_right (by omega)
    exact ⟨t, ht, List.mem_map.1 hmem⟩

end Sys2Proof.Machine
end

section
/-! SUPPORT. Reading a register by number, and the command words that name none (spec/43_host_access.md rules R180,
R181). -/

namespace Sys2Proof.Machine

/-! ## The answer to a register number -/

/-- The word RDREG answers for the number `rn`: the register's bits, or `IllegalOperand` without data (R180). -/
def rdregAnswer (rn : BitVec 4) (r : Regs) : BitVec 64 :=
  match readReg rn r with
  | some v => v.setWidth 64
  | none => 0x5000000000000000#64

theorem rdregAnswer_of_ge {rn : BitVec 4} {r : Regs} (h : 11 ≤ rn.toNat) :
    rdregAnswer rn r = 0x5000000000000000#64 := by
  rw [rdregAnswer, readReg_eq_none_iff.2 h]

theorem exec_rdreg (rn : BitVec 4) (s : State) :
    exec (.rdreg rn) s = .next { s with responses := s.responses ++ [rdregAnswer rn s.regs] } := by
  show execRdreg rn s = _
  unfold execRdreg rdregAnswer
  cases readReg rn s.regs with
  | some v =>
    dsimp only
    rw [← responseWord_ok_none]
    rfl
  | none => rfl

/-- Settles O31: the answer to each of the sixteen numbers is the word listed for it. -/
theorem rdregReads : Obligations.RdregReads := by
  intro s p hp
  have hanswer : rdregAnswer p.1 s.regs = p.2 := by
    revert p
    simp [rdregAnswer, readReg]
  rw [exec_rdreg, hanswer]

/-! ## Illegal forms -/

theorem decode_eq_accept_of_opcode_rdreg {w : BitVec 64} (h : opcode w = 0x09#8) :
    decode w = accept (reserved w == 0#8 && (payload w).extractLsb' 4 44 == 0#44) .illegalRdreg
      (.rdreg ((payload w).extractLsb' 0 4)) := by
  simp [decode, h]

/-- Settles O32: a must-be-zero bit that is set is refused by the decoder, a number that names no register by RDREG
itself, and both answer alike. -/
theorem rdregIllegalForms : Obligations.RdregIllegalForms := by
  intro s w rest hin hopc hillegal
  have hd := decode_eq_accept_of_opcode_rdreg hopc
  rw [step_present hin]
  by_cases hzero : reserved w = 0#8 ∧ (payload w).extractLsb' 4 44 = 0#44
  · obtain ⟨hrsv, hpay⟩ := hzero
    have hrn : 11 ≤ ((payload w).extractLsb' 0 4).toNat := by simpa [hrsv, hpay] using hillegal
    have hok : decode w = .ok (.rdreg ((payload w).extractLsb' 0 4)) := by simpa [accept, hrsv, hpay] using hd
    rw [serveEncoding_ok (e := .command w) hok, exec_rdreg, rdregAnswer_of_ge hrn]
  · have herror : decode w = .error .illegalRdreg := by simpa [accept, hzero] using hd
    exact serveEncoding_error (e := .command w) herror _

end Sys2Proof.Machine
end

section
/-! SUPPORT. A refused command, from what a walk does: it ends before its first step, with ERR written or RDREG's
answer alone (spec/60_exceptions.md rule R195; spec/95_test_vectors.md section 6 property 4). -/

namespace Sys2Proof.Machine

@[simp] theorem responseData_responseWord (st : Status) (d : Decision) (data : BitVec 48) :
    responseData (responseWord st d data) = data :=
  BitVec.extractLsb'_append_eq_right

/-! ## Refused or not -/

/-- `t` is `s` with one response more, without decision or data, and a code written into ERR. -/
def ErrAlone (s t : State) : Prop := ∃ st e, t = respond st .none 0#48 (s.setErr e)

/-- `t` is not `s` after a refusal: a response put out between them has a status below `NotReady` (R191). -/
def NotRefused (s t : State) : Prop := ∀ r, t.responses = s.responses ++ [r] → (responseStatus r).toNat < 4

theorem raise_errAlone (st : Status) (s : State) : ErrAlone s (raise st .none 0#48 s) := ⟨st, st.code, rfl⟩

/-- RDREG's refusal does not write ERR (R181). -/
theorem respond_errAlone (st : Status) (s : State) : ErrAlone s (respond st .none 0#48 s) := ⟨st, s.regs.err, rfl⟩

theorem notRefused_of_silent {s t : State} (h : t.responses = s.responses) : NotRefused s t := by
  intro r hr
  simp [h] at hr

theorem respond_notRefused {s u : State} {st : Status} (hst : st.code.toNat < 4) (d : Decision) (data : BitVec 48)
    (hu : u.responses = s.responses) : NotRefused s (respond st d data u) := by
  intro r hr
  obtain rfl : responseWord st d data = r := by simpa [hu] using hr
  rwa [responseStatus_responseWord]

theorem raise_notRefused {s u : State} {st : Status} (hst : st.code.toNat < 4) (d : Decision) (data : BitVec 48)
    (hu : u.responses = s.responses) : NotRefused s (raise st d data u) :=
  respond_notRefused (u := u.setErr st.code) hst d data hu

/-! ## The ends of the instructions -/

theorem evaluate_notRefused (P : Params) (sample : RawSample) (data : BitVec 48) (s : State) :
    NotRefused s (evaluate P sample data s) := by
  rcases evaluate_cases P sample data s with ⟨-, h⟩ | ⟨-, -, h⟩ | ⟨-, -, -, h⟩ | ⟨-, -, -, h⟩ <;> rw [h]
  all_goals exact raise_notRefused (by decide) _ _ rfl

/-- Past its transactions only RDREG can still be refused. -/
theorem commandEnd_notRefused {i : Instr} (hi : ∀ rn, i ≠ .rdreg rn) (d : RawSample) (u : State) :
    NotRefused u (commandEnd i d u) := by
  cases i with
  | init addr =>
    rw [commandEnd]
    split <;> exact raise_notRefused (by decide) _ _ rfl
  | rdacc | lpenter | lpexit | sub | unsub => exact raise_notRefused (by decide) _ _ rfl
  | eval sample => exact evaluate_notRefused Config.params sample 0#48 u
  | poll => exact evaluate_notRefused Config.params d d.pack (u.setSample d.pack)
  | rdreg rn => exact absurd rfl (hi rn)
  | busWrite | busRead => exact notRefused_of_silent rfl

theorem rdreg_refusal (rn : BitVec 4) (d : RawSample) (s : State) :
    ErrAlone s (commandEnd (.rdreg rn) d s) ∨ NotRefused s (commandEnd (.rdreg rn) d s) := by
  rw [commandEnd]
  cases readReg rn s.regs with
  | none => exact .inl (respond_errAlone _ s)
  | some v => exact .inr (respond_notRefused (by decide) _ _ rfl)

/-! ## What is served -/

/-- An instruction is refused before it starts, or not at all: what it has begun ends in another status (R195). -/
theorem exec_refusal {i : Instr} {s t : State} (h : exec i s = .next t) : ErrAlone s t ∨ NotRefused s t := by
  by_cases hi : ∃ rn, i = .rdreg rn
  · obtain ⟨rn, rfl⟩ := hi
    exact Host.Outcome.next.inj ((execRdreg_eq rn s).symm.trans h) ▸ rdreg_refusal rn default s
  rcases exec_cases h with ⟨st, rfl⟩ | ⟨n, rfl⟩ | ⟨d, rfl⟩
  · exact .inl (raise_errAlone st s)
  · obtain ⟨hr, -⟩ := transactAll_commandStart_silent ((stepList Config.params i).take n) i s
    exact .inr (raise_notRefused (by decide) _ _ hr)
  · obtain ⟨hr, -⟩ := transactAll_commandStart_silent (stepList Config.params i) i s
    have hend := commandEnd_notRefused (fun rn h => hi ⟨rn, h⟩) d
      (transactAll (stepList Config.params i) (commandStart i s))
    exact .inr (by rwa [NotRefused, hr] at hend)

theorem refuse_errAlone {r : Reject} {s t : State} (h : refuse r s = .next t) : ErrAlone s t := by
  cases r with
  | illegalCommand | illegalOperand => exact Host.Outcome.next.inj h ▸ raise_errAlone _ s
  | illegalRdreg => exact Host.Outcome.next.inj h ▸ respond_errAlone _ s
  | malformedTransfer => cases h

theorem serveEncoding_refusal {e : Encoding} {s t : State} (h : serveEncoding e s = .next t) :
    ErrAlone s t ∨ NotRefused s t := by
  cases hd : decodeEncoding e with
  | ok i => exact exec_refusal (serveEncoding_ok hd s ▸ h)
  | error r => exact .inl (refuse_errAlone (serveEncoding_error hd s ▸ h))

/-- Settles O37: what is not refused has a status below 4, and a refusal leaves all but ERR. -/
theorem refusalsChangeOnlyErr : Obligations.RefusalsChangeOnlyErr := by
  intro s t w rest r hin h hresp hst
  rw [step_present hin] at h
  rcases serveEncoding_refusal h with ⟨st, e, rfl⟩ | hnot
  · obtain rfl : responseWord st .none 0#48 = r := by simpa using hresp
    exact ⟨rfl, responseDecision_responseWord _ _ _, responseData_responseWord _ _ _⟩
  · exact absurd (hnot r hresp) (Nat.not_lt.2 hst)

end Sys2Proof.Machine
end

section
/-! SUPPORT. The reset input, while the core is idle and during a command, and what it takes for the driver to be ready:
where a command's transactions go, and the history of an INIT that succeeds (spec/40_driver.md rule R104;
spec/70_reset_and_hazards.md rules R220 to R223). -/

namespace Sys2Proof.Machine

/-! ## The reset input -/

theorem step_reset {s : State} {rest : List Input} (h : s.inputs = .reset :: rest) :
    step s = .next (coreReset { s with inputs := rest }) := by
  simp only [step, h, serve]

/-- Settles O34. -/
theorem resetValues : Obligations.ResetValues :=
  ⟨fun _ _ hin => step_reset hin, rfl, rfl, rfl⟩

/-- Every command word is served to completion, legal or not (R227). -/
theorem serveEncoding_command_next (w : BitVec 64) (s : State) :
    ∃ done, serveEncoding (.command w) s = .next done := by
  by_cases h : opcode w = 0x09#8
  · obtain ⟨st, data, hdone⟩ := serve_rdreg h s
    exact ⟨_, hdone⟩
  · obtain ⟨done, hdone, -⟩ := serve_other_than_rdreg h s
    exact ⟨done, hdone⟩

theorem serveCut_of_served {w : BitVec 64} {s done : State} (h : serveEncoding (.command w) s = .next done)
    (calls : Nat) : serveCut w calls s = .next (abandon calls s done) := by
  simp only [serveCut, h]

theorem step_cut {s done : State} {w : BitVec 64} {calls : Nat} {rest : List Input}
    (hin : s.inputs = .cut w calls :: rest) (h : serveEncoding (.command w) { s with inputs := rest } = .next done) :
    step s = .next (abandon calls { s with inputs := rest } done) := by
  simp only [step, hin, serve, serveCut_of_served h]

/-- Of the history an abandoned command would have left, what came after the first `calls` calls is cut off. -/
theorem abandon_events (calls : Nat) {s done : State} (h : s.events <+: done.events) :
    (abandon calls s done).events = done.events.take (s.events.length + calls) := by
  obtain ⟨es, he⟩ := h
  show s.events ++ (done.events.drop s.events.length).take calls = _
  rw [← he, List.drop_left, List.take_length_add_append]

/-- An abandoned command uses up one listed bus answer per transaction it leaves in the history. -/
theorem abandon_busIn (calls : Nat) (s done : State) :
    (abandon calls s done).busIn =
      s.busIn.drop (((abandon calls s done).events.drop s.events.length).filter isBusEvent).length := by
  obtain ⟨es, he, hb, -⟩ := abandon_historyGrows calls s done
  rw [hb, he, List.drop_left]

theorem Served.events_grow {s t : State} (h : Served s t) : s.events <+: t.events := by
  obtain ⟨es, he, -⟩ := h.calls.historyGrows
  exact ⟨es, he.symm⟩

/-- Settles O35: the command is served and then abandoned, which keeps its first calls and resets the registers. -/
theorem resetDuringCommand : Obligations.ResetDuringCommand := by
  intro s w calls rest hin
  obtain ⟨done, hdone⟩ := serveEncoding_command_next w { s with inputs := rest }
  exact ⟨_, done, step_cut hin hdone, hdone, rfl, rfl, rfl,
    abandon_events calls (serveEncoding_served hdone).events_grow, List.prefix_append _ _,
    abandon_busIn calls { s with inputs := rest } done⟩

/-! ## What a step serves -/

/-- A step changes nothing, resets the registers, or serves what is presented. -/
theorem step_serves {s t : State} (h : step s = .next t) :
    t = s ∨ t.regs = Regs.reset ∨ ∃ e rest, serveEncoding e { s with inputs := rest } = .next t := by
  rcases hin : s.inputs with _ | ⟨e | _ | ⟨w, calls⟩, rest⟩
  · rw [stepRunsTheDecodedInstruction.2 s hin] at h
    exact .inl (Host.Outcome.next.inj h).symm
  · exact .inr (.inr ⟨e, rest, step_present hin ▸ h⟩)
  · rw [step_reset hin] at h
    exact .inr (.inl (Host.Outcome.next.inj h ▸ rfl))
  · obtain ⟨done, hdone⟩ := serveEncoding_command_next w { s with inputs := rest }
    rw [step_cut hin hdone] at h
    exact .inr (.inl (Host.Outcome.next.inj h ▸ rfl))

/-! ## The address of the transactions -/

theorem busElsewhere_of_mem_eventsOf {addr : BitVec 7} {ops : List MicroOp} {as : List BusAnswer} {e : Event}
    (h : e ∈ eventsOf addr ops as) : busElsewhere addr e = false := by
  rw [eventsOf, ← List.map_uncurry_zip_eq_zipWith] at h
  obtain ⟨p, -, rfl⟩ := List.mem_map.1 h
  exact decide_eq_false (not_not.2 rfl)

/-- No transaction of an instruction goes elsewhere than to the address it leaves in DEVADDR (R22, R115). -/
theorem exec_busElsewhere {i : Instr} {s t : State} (h : exec i s = .next t) :
    ∀ e ∈ t.events.drop s.events.length, busElsewhere t.regs.devaddr e = false := by
  intro e hmem
  obtain ⟨t', n, as, ht, -, -, hbus, -⟩ := busTrafficFollowsStepList i s
  obtain rfl := Host.Outcome.next.inj (ht.symm.trans h)
  cases e with
  | bus addr op result => exact busElsewhere_of_mem_eventsOf (hbus ▸ List.mem_filter.2 ⟨hmem, rfl⟩)
  | notify bytes answer => rfl

/-! ## A ready driver was verified -/

/-- An INIT that leaves the driver ready added the six events of a successful INIT at its address (R104 to R106). -/
theorem exec_init_of_ready {addr : BitVec 7} {s t : State} (h : exec (.init addr) s = .next t)
    (hready : t.regs.drv ≠ drvUninit) :
    t.regs.devaddr = addr ∧ t.events = s.events ++ initEvents Config.params addr := by
  rcases answersTo_cases (stepList Config.params (.init addr)) (s.setDevaddr addr) with ⟨ds, hds⟩ | ⟨ds, hk, hds⟩
  · obtain rfl | ⟨ds, d, rfl⟩ := ds.eq_nil_or_concat'
    · cases hds
    rw [List.map_append] at hds
    obtain ⟨hmatch, hmismatch⟩ := initSemantics addr s ds d hds
    by_cases hid : d.b0 = Config.params.idExpected
    · exact Host.Outcome.next.inj ((hmatch hid).symm.trans h) ▸ ⟨rfl, rfl⟩
    · exact absurd (Host.Outcome.next.inj ((hmismatch hid).symm.trans h) ▸ rfl) hready
  · have hfail := initBusFailure addr s ds (Nat.le_of_lt_succ hk) hds
    exact absurd (Host.Outcome.next.inj (hfail.symm.trans h) ▸ rfl) hready

/-- Only INIT makes an `UNINIT` driver ready (R102, R114). -/
theorem exec_keeps_uninit {i : Instr} {s t : State} (hi : ∀ addr, i ≠ .init addr) (h : exec i s = .next t)
    (hdrv : s.regs.drv = drvUninit) : t.regs.drv = drvUninit := by
  have hl := (exec_frame h).listed
  have hrefused : ∀ {st}, refusal i s = some st → t.regs.drv = drvUninit := fun hr =>
    Host.Outcome.next.inj ((exec_of_refusal hr).symm.trans h) ▸ hdrv
  cases i with
  | init addr => exact absurd rfl (hi addr)
  | lpexit => exact hrefused (if_pos hdrv)
  | lpenter wf =>
    by_cases hwf : Config.params.wfLegal.contains wf = true
    · exact hrefused ((if_pos hwf).trans (if_pos hdrv))
    · exact hrefused (if_neg hwf)
  | _ => exact (congrArg Regs.drv hl).trans hdrv

/-- Only INIT writes DEVADDR (R22). -/
theorem exec_devaddr {i : Instr} {s t : State} (hi : ∀ addr, i ≠ .init addr) (h : exec i s = .next t) :
    t.regs.devaddr = s.regs.devaddr := by
  have hl := (exec_frame h).listed
  cases i with
  | init addr => exact absurd rfl (hi addr)
  | _ => exact (congrArg Regs.devaddr hl).trans rfl

theorem verified_of_uninit (P : Params) {s : State} (h : s.regs.drv = drvUninit) : verified P s :=
  fun hready => absurd h hready

/-- A driver that stays ready at its address stays verified while no added transaction goes elsewhere. -/
theorem verified_of_later {P : Params} {s t : State} (hs : verified P s)
    (hdrv : s.regs.drv = drvUninit → t.regs.drv = drvUninit) (haddr : t.regs.devaddr = s.regs.devaddr)
    (hgrow : s.events <+: t.events)
    (hnew : ∀ e ∈ t.events.drop s.events.length, busElsewhere t.regs.devaddr e = false) : verified P t := by
  intro hready
  obtain ⟨before, after, he, hafter⟩ := hs (mt hdrv hready)
  obtain ⟨es, hes⟩ := hgrow
  rw [← hes, List.drop_left] at hnew
  refine ⟨before, after ++ es, ?_, fun e hmem => ?_⟩
  · rw [← hes, he, haddr, List.append_assoc]
  · exact (List.mem_append.1 hmem).elim (fun h => haddr ▸ hafter e h) (hnew e)

/-- INIT verifies the driver anew or leaves it `UNINIT`; no other instruction makes it ready or moves its address. -/
theorem exec_verified {i : Instr} {s t : State} (hs : verified Config.params s) (h : exec i s = .next t) :
    verified Config.params t := by
  by_cases hi : ∃ addr, i = .init addr
  · obtain ⟨addr, rfl⟩ := hi
    intro hready
    obtain ⟨haddr, he⟩ := exec_init_of_ready h hready
    exact ⟨s.events, [], by rw [he, haddr, List.append_nil], nofun⟩
  · have hne : ∀ addr, i ≠ .init addr := fun addr heq => hi ⟨addr, heq⟩
    exact verified_of_later hs (exec_keeps_uninit hne h) (exec_devaddr hne h) (exec_frame h).events
      (exec_busElsewhere h)

theorem serveEncoding_verified {e : Encoding} {s t : State} (hs : verified Config.params s)
    (h : serveEncoding e s = .next t) : verified Config.params t := by
  cases hd : decodeEncoding e with
  | ok i => exact exec_verified hs (serveEncoding_ok hd s ▸ h)
  | error r =>
    obtain ⟨st, v, rfl⟩ := refuse_errAlone (serveEncoding_error hd s ▸ h)
    exact hs

/-- Settles O43: instructions and refusals keep the invariant, and reset leaves the driver `UNINIT`. -/
theorem readyDriverWasVerified : Obligations.ReadyDriverWasVerified := by
  intro s t hs h
  rcases step_serves h with rfl | hreset | ⟨e, rest, hserved⟩
  · exact hs
  · exact verified_of_uninit Config.params (hreset ▸ rfl)
  · exact serveEncoding_verified (s := { s with inputs := rest }) hs hserved

end Sys2Proof.Machine
end
